-- ==== Sys2Proof/Word.lean ====
section
/-! DEFINITION. Word.lean: the word types of the BRC core and the one division the lengths need. -/

namespace Sys2Proof

/-- One buffer element or one octet of port data: 8 bits (R8, R63). -/
abbrev Byte := BitVec 8

/-- One register, or the data lines of the port: 32 bits (R12, R62). -/
abbrev Word := BitVec 32

/-- One byte offset from BRC_BASE: 20 bits (R60). -/
abbrev Offset := BitVec 20

/-- `ceil_div(a, b) = (a + b - 1) div b` for `b > 0` (R13). -/
def ceilDiv (a b : Nat) : Nat := (a + b - 1) / b

end Sys2Proof
end

