-- ==== Sys2Proof/Config.lean ====
section
/-! DEFINITION. Config.lean: what an implementation of the BRC core fixes, and the values its spec leaves free. -/

namespace Sys2Proof

/-- The ID register: MAGIC 0x4252, REV 0x01, MAXW 0x07 (R22). -/
def Config.idWord : Word := 0x42520107#32

/-- The largest legal symbol width (R8, ID.MAXW of R22). -/
def Config.maxWidth : Nat := 7

/-- The least capacity an implementation may have (R9). -/
def Config.minInCap : Nat := 1

/-- The largest capacity an implementation may have (R9). -/
def Config.maxInCap : Nat := 65536

/-- The capacity of the IN buffer in `State.reset`.
DESIGN CHOICE (log 2), unsafe: R9 leaves IN_CAP open, and 16 is the value of the spec's vectors.
A machine of any other capacity starts in `State.resetWith`. -/
def Config.resetInCap : Nat := 16

/-- The system address of the aperture in units of 1 MiB: an open parameter (R11).
UNVERIFIED (log 3), safe: it has no body, and no step reads it. -/
opaque Config.brcBaseMiB : Nat

/-- `BRC_BASE`, aligned to 1 MiB (R11). -/
def Config.brcBase : Nat := Config.brcBaseMiB * 0x100000

/-- The system address of an offset: the platform combines the two (R11, R99). -/
def Config.systemAddress (a : Offset) : Nat := Config.brcBase + a.toNat

/-- The free byte of draw `k`: what a host read returns for an unwritten byte (R232) and for an OUT byte
while BUSY = 1 (R80). It has no body, so nothing can be proved about its value (log 6), safe. -/
opaque Config.freeByte : Nat → Byte

/-- The free word of draw `k`: RDATA beside the acknowledgement of a legal write, which no rule states
(R62, R67; log 5), safe. -/
opaque Config.freeWord : Nat → Word

end Sys2Proof
end

