-- ==== Sys2Proof/Syntax.lean ====
section
/-! DEFINITION. Syntax.lean: the port request, and one constructor of Instr for each row of spec/opcode_table.json. -/

namespace Sys2Proof

/-- One request on the host port: WE, SIZE, ADDR and WDATA (R62). -/
structure BusReq where
  /-- 1 is a write, 0 a read. -/
  we    : Bool
  /-- 0b00, 0b01 and 0b10 are 1, 2 and 4 bytes; 0b11 is illegal. -/
  size  : BitVec 2
  addr  : Offset
  wdata : Word
  deriving DecidableEq, Repr

/-- The instructions: the 16 command words of R92 and the 8 bus requests of R98.
A command carries no operand (R94).
A bus request carries ADDR, and WDATA where it is a write (R99). -/
inductive Instr where
  /-- OP 0x0: no operation (R113). -/
  | nop
  /-- OP 0x1: group-size calculation (R134). -/
  | gsz
  /-- OP 0x2: encode octets to symbols (R150). -/
  | enc
  /-- OP 0x3: decode symbols to octets (R170). -/
  | dec
  /-- OP 0x4: validate symbols as DEC does, without writing OUT (R171). -/
  | chk
  /-- OP 0x5 to 0xF: accepted, then completed with BadCommand (R96, R119). -/
  | reservedOp5
  | reservedOp6
  | reservedOp7
  | reservedOp8
  | reservedOp9
  | reservedOpA
  | reservedOpB
  | reservedOpC
  | reservedOpD
  | reservedOpE
  | reservedOpF
  /-- Code 0b000: 1 byte read (R66). -/
  | rd8 (addr : Offset)
  /-- Code 0b001: 2 byte read (R66). -/
  | rd16 (addr : Offset)
  /-- Code 0b010: 4 byte read (R66). -/
  | rd32 (addr : Offset)
  /-- Code 0b011: illegal read size, a bus error (R74). -/
  | illegalBus3 (addr : Offset)
  /-- Code 0b100: 1 byte write (R67). -/
  | wr8 (addr : Offset) (wdata : Word)
  /-- Code 0b101: 2 byte write (R67). -/
  | wr16 (addr : Offset) (wdata : Word)
  /-- Code 0b110: 4 byte write (R67). -/
  | wr32 (addr : Offset) (wdata : Word)
  /-- Code 0b111: illegal write size, a bus error (R74). -/
  | illegalBus7 (addr : Offset) (wdata : Word)
  deriving DecidableEq, Repr

end Sys2Proof
end

