-- ==== Sys2Proof/WellFormed.lean ====
section
/-! DEFINITION. WellFormed.lean: which terms of Instr the decoder gives. -/

namespace Sys2Proof

/-- The offset of the CMD register (R21, R26). -/
def cmdOffset : Offset := 0x00010#20

/-- An instruction is well formed when it is the name the decoder has for its request.
A 4-byte write at CMD is a command word (R104, R105), so its name is the command's and not `wr32`.
`exec` gives the other spelling the same meaning (log 11). -/
def Instr.wellFormed : Instr → Bool
  | .wr32 addr _ => addr != cmdOffset
  | .nop | .gsz | .enc | .dec | .chk => true
  | .reservedOp5 | .reservedOp6 | .reservedOp7 | .reservedOp8 | .reservedOp9 | .reservedOpA => true
  | .reservedOpB | .reservedOpC | .reservedOpD | .reservedOpE | .reservedOpF => true
  | .rd8 _ | .rd16 _ | .rd32 _ | .illegalBus3 _ => true
  | .wr8 _ _ | .wr16 _ _ | .illegalBus7 _ _ => true

end Sys2Proof
end

