-- ==== Sys2Proof/Decode.lean ====
section
/-! DEFINITION. Decode.lean: from a port request to an instruction, and back.
The block fetches nothing from memory (R47, R83): an instruction reaches it as one request on its port.
Every request decodes, because every code and every OP has a row of the table (R92, R98, R105). -/

namespace Sys2Proof

/-- The command a word written to CMD selects: bits 3:0 alone (R91, R92, R93). -/
def decodeCmd (w : Word) : Instr :=
  match (w.extractLsb' 0 4).toNat with
  | 0x0 => .nop
  | 0x1 => .gsz
  | 0x2 => .enc
  | 0x3 => .dec
  | 0x4 => .chk
  | 0x5 => .reservedOp5
  | 0x6 => .reservedOp6
  | 0x7 => .reservedOp7
  | 0x8 => .reservedOp8
  | 0x9 => .reservedOp9
  | 0xA => .reservedOpA
  | 0xB => .reservedOpB
  | 0xC => .reservedOpC
  | 0xD => .reservedOpD
  | 0xE => .reservedOpE
  | _   => .reservedOpF

/-- The 3-bit request code `{WE, SIZE}` as a number (R98). -/
def BusReq.code (r : BusReq) : Nat := r.we.toNat * 4 + r.size.toNat

/-- The instruction a request is: the procedure of R105 over the codes of R98. -/
def decode (r : BusReq) : Instr :=
  match r.code with
  | 0b000 => .rd8 r.addr
  | 0b001 => .rd16 r.addr
  | 0b010 => .rd32 r.addr
  | 0b011 => .illegalBus3 r.addr
  | 0b100 => .wr8 r.addr r.wdata
  | 0b101 => .wr16 r.addr r.wdata
  | 0b110 => if r.addr = cmdOffset then decodeCmd r.wdata else .wr32 r.addr r.wdata
  | _     => .illegalBus7 r.addr r.wdata

/-- A command word with OP in bits 3:0 and the ignored bits 31:4 written 0, as software should (R91). -/
def cmdRequest (op : BitVec 4) : BusReq :=
  { we := true, size := 0b10#2, addr := cmdOffset, wdata := op.setWidth 32 }

/-- The request that carries an instruction, from R92, R98 and R101.
A read leaves WDATA, which does not travel with it, at 0. -/
def encode : Instr → BusReq
  | .nop => cmdRequest 0x0#4
  | .gsz => cmdRequest 0x1#4
  | .enc => cmdRequest 0x2#4
  | .dec => cmdRequest 0x3#4
  | .chk => cmdRequest 0x4#4
  | .reservedOp5 => cmdRequest 0x5#4
  | .reservedOp6 => cmdRequest 0x6#4
  | .reservedOp7 => cmdRequest 0x7#4
  | .reservedOp8 => cmdRequest 0x8#4
  | .reservedOp9 => cmdRequest 0x9#4
  | .reservedOpA => cmdRequest 0xA#4
  | .reservedOpB => cmdRequest 0xB#4
  | .reservedOpC => cmdRequest 0xC#4
  | .reservedOpD => cmdRequest 0xD#4
  | .reservedOpE => cmdRequest 0xE#4
  | .reservedOpF => cmdRequest 0xF#4
  | .rd8 a => { we := false, size := 0b00#2, addr := a, wdata := 0#32 }
  | .rd16 a => { we := false, size := 0b01#2, addr := a, wdata := 0#32 }
  | .rd32 a => { we := false, size := 0b10#2, addr := a, wdata := 0#32 }
  | .illegalBus3 a => { we := false, size := 0b11#2, addr := a, wdata := 0#32 }
  | .wr8 a v => { we := true, size := 0b00#2, addr := a, wdata := v }
  | .wr16 a v => { we := true, size := 0b01#2, addr := a, wdata := v }
  | .wr32 a v => { we := true, size := 0b10#2, addr := a, wdata := v }
  | .illegalBus7 a v => { we := true, size := 0b11#2, addr := a, wdata := v }

/-- The request that carries word `w` of a row of the opcode table (log 12).
A CMD row's word is 32 bits and is written to CMD by a 4-byte write (R91, R104).
A BUS row's word is the 3-bit code, with ADDR and WDATA, to which the table gives no bits, all 0 (R98).
A word shorter than 32 bits that does not fit in 3 bits cannot be a BUS code, so it is a command word. -/
def tableRequest (nbits w : Nat) : BusReq :=
  if nbits < 32 && w < 8 then
    { we := w.testBit 2, size := BitVec.ofNat 2 w, addr := 0#20, wdata := 0#32 }
  else
    { we := true, size := 0b10#2, addr := cmdOffset, wdata := BitVec.ofNat 32 w }

/-- The decoder on an opcode-table word: `none` only for a word wider than `nbits` says. -/
def decodeTableWord (nbits w : Nat) : Option Instr :=
  if w < 2 ^ nbits then some (decode (tableRequest nbits w)) else none

end Sys2Proof
end

