-- ==== Sys2Proof/Machine/State.lean ====
section
/-! DEFINITION. Machine/State.lean: the state of the BRC core as plain data, the reasons a step can stop, and reset. -/

namespace Sys2Proof.Machine

/-- The bytes of one buffer that have been written, by index, in strictly rising order.
An index that is not listed is an unwritten byte and has no value (R232). -/
abbrev Memory := List Host.Cell

/-- The command snapshot SNAP (R42). -/
structure Snap where
  op   : BitVec 4
  w    : BitVec 8
  elen : BitVec 32
  deriving DecidableEq, Repr

/-- The shifter's datapath registers (R44). -/
structure Shifter where
  /-- Input byte index. -/
  pos   : BitVec 17
  /-- Bits consumed from the current byte. -/
  off   : BitVec 4
  /-- Bits carried from the previous byte. -/
  carry : BitVec 7
  /-- Carry width. -/
  cw    : BitVec 3
  /-- Symbols emitted so far. -/
  k     : BitVec 20
  deriving DecidableEq, Repr

/-- The packer's datapath registers (R45). -/
structure Packer where
  /-- Symbol index. -/
  q   : BitVec 17
  /-- Bits filled in the current output byte. -/
  off : BitVec 3
  /-- Value of those bits. -/
  cur : BitVec 7
  /-- Output bytes produced. -/
  j   : BitVec 17
  deriving DecidableEq, Repr

/-- The sub-phases of a decode-family command (R43, R177). -/
inductive SubPhase where
  | validate
  | pack
  deriving DecidableEq, Repr

/-- The engine phase (R43): it is BUSY under another name, so it has no storage. -/
inductive EnginePhase where
  | idle
  | running
  deriving DecidableEq, Repr

/-- The response lines of the port (R62). -/
structure Response where
  rdata : Word
  err   : Bool
  deriving DecidableEq, Repr

/-- One event of the total order of R79: what moves next. -/
inductive Input where
  /-- The host issues a request (R64). -/
  | bus (r : BusReq)
  /-- The engine's turn: the completion, where one is enabled (R116). -/
  | engine
  /-- The host's `wait` loop (R103): STATUS is read until bit 0 of the result is 0, and the engine moves once
  `late` + 1 reads have found it 1 (log 19). -/
  | wait (late : Nat)
  /-- RST is asserted and released (R230). -/
  | rst
  deriving DecidableEq, Repr

/-- The state of the block, the last response on its port, and the model's own three fields: the parameter
`inCap`, the events to come, and the number of free values drawn. -/
structure State where
  /-- The parameter IN_CAP, which CAP reads as (R9, R23). No step changes it (log 2). -/
  inCap    : Nat
  /-- CTRL.WIDTH; CTRL bits 31:8 are reserved and have no storage (R24). -/
  width    : BitVec 8
  /-- LEN (R25). -/
  len      : Word
  /-- STATUS.BUSY (R27). -/
  busy     : Bool
  /-- STATUS.DONE (R28). -/
  done     : Bool
  /-- STATUS.ECODE (R30); STATUS.ERR has no storage of its own (R29). -/
  ecode    : BitVec 4
  /-- STATUS.WDROP (R31). -/
  wdrop    : Bool
  /-- OUT_LEN (R33). -/
  outLen   : Word
  /-- RES (R34). -/
  res      : Word
  /-- FULLG (R35). -/
  fullg    : Word
  /-- RESID (R36). -/
  resid    : Word
  /-- ERR_INFO (R37). -/
  errInfo  : Word
  /-- ERR_INDEX (R38). -/
  errIndex : Word
  /-- The IN buffer (R40). -/
  inBuf    : Memory
  /-- The OUT buffer (R41). -/
  outBuf   : Memory
  /-- The hidden command snapshot (R42). -/
  snap     : Snap
  /-- The shifter's registers (R44). -/
  shifter  : Shifter
  /-- The packer's registers (R45). -/
  packer   : Packer
  /-- The decode sub-phase (R43). -/
  subPhase : SubPhase
  /-- The last response on the port (R62). -/
  resp     : Response
  /-- The model's own: the events to come, oldest first (R79; log 1). -/
  inputs   : List Input
  /-- The model's own: how many free values have been drawn (log 6). -/
  draws    : Nat
  deriving DecidableEq, Repr

/-- Why the machine stops with a fault. -/
inductive Fault where
  /-- Raised by the completion of ENC, DEC or CHK when IN byte `index`, the lowest such below ELEN, has not been
  written since reset: R232 and R239 make it a fault of the program. Safe (log 7). -/
  | engineReadUnwritten (index : Nat)
  /-- Raised by a completion whose snapshot holds OP 0, which no accept stores (R111), so only from states no run
  reaches; R115 gives such a snapshot no result. Safe (log 10). -/
  | noCommand
  deriving DecidableEq, Repr

/-- Why a step has no meaning. -/
inductive Refusal where
  /-- Raised by `exec` for an instruction of the table that has no meaning yet. Safe. -/
  | notModelled (mnemonic : String)
  deriving DecidableEq, Repr

/-- The datapath registers at the beginning of a run (R156). -/
def Shifter.start : Shifter := { pos := 0, off := 0, carry := 0, cw := 0, k := 0 }

/-- The packer's registers at the beginning of a run (R180). -/
def Packer.start : Packer := { q := 0, off := 0, cur := 0, j := 0 }

/-- The state after reset of a block with capacity `cap`: R231 for the registers, R232 for the buffers.
SNAP and the datapath registers have no meaning while IDLE and are held at 0, as R231 and U9 allow (log 8, log 9).
The response lines are 0 before the first response: DESIGN CHOICE (log 17), unsafe. -/
def State.resetWith (cap : Nat) : State :=
  { inCap := cap
    width := 0, len := 0
    busy := false, done := false, ecode := 0, wdrop := false
    outLen := 0, res := 0, fullg := 0, resid := 0, errInfo := 0, errIndex := 0
    inBuf := [], outBuf := []
    snap := { op := 0, w := 0, elen := 0 }
    shifter := Shifter.start, packer := Packer.start, subPhase := .validate
    resp := { rdata := 0, err := false }
    inputs := [], draws := 0 }

/-- The state after reset (R231, R232), with the capacity of log 2. -/
def State.reset : State := State.resetWith Config.resetInCap

end Sys2Proof.Machine
end

