-- ==== Sys2Proof/Machine/Flags.lean ====
section
/-! DEFINITION. Machine/Flags.lean: the STATUS flags and the packed result words. -/

namespace Sys2Proof.Machine

/-- STATUS.ERR, which always equals (STATUS.ECODE ≠ 0) and has no storage (R29). -/
def State.err (s : State) : Bool := s.ecode != 0#4

/-- The engine phase: IDLE when BUSY = 0 and RUNNING when BUSY = 1 (R43). -/
def State.phase (s : State) : EnginePhase := if s.busy then .running else .idle

/-- The STATUS register: `{23'b0, WDROP, ECODE, 1'b0, ERR, DONE, BUSY}` (R32). -/
def statusWord (s : State) : Word :=
  BitVec.ofNat 32
    (s.wdrop.toNat * 2 ^ 8 + s.ecode.toNat * 2 ^ 4 + s.err.toNat * 2 ^ 2 + s.done.toNat * 2 ^ 1 + s.busy.toNat)

/-- The CTRL register: WIDTH in bits 7:0, bits 31:8 reserved and 0 (R24). -/
def ctrlWord (s : State) : Word := s.width.setWidth 32

/-- The CAP register: IN_CAP (R23). -/
def capWord (s : State) : Word := BitVec.ofNat 32 s.inCap

/-- A host write of `v` to STATUS: it clears WDROP if bit 8 of `v` is 1 and has no other effect (R31, R32). -/
def writeStatus (v : Word) (s : State) : State :=
  { s with wdrop := s.wdrop && !v.getLsbD 8 }

/-- The RES word `{GCD, LCM, SGS, OGS}` (R34). -/
def packRes (gcd lcm sgs ogs : Nat) : Word :=
  BitVec.ofNat 32 (gcd % 2 ^ 8 * 2 ^ 24 + lcm % 2 ^ 8 * 2 ^ 16 + sgs % 2 ^ 8 * 2 ^ 8 + ogs % 2 ^ 8)

/-- The RESID word: PARTIAL in bit 16, ROUT in bits 15:8, RIN in bits 7:0, the rest 0 (R36). -/
def packResid (isPartial : Bool) (rout rin : Nat) : Word :=
  BitVec.ofNat 32 (isPartial.toNat * 2 ^ 16 + rout % 2 ^ 8 * 2 ^ 8 + rin % 2 ^ 8)

/-- The ERR_INFO word `{12'b0, OVHBITS, WIDTH, VALUE}` (R37, R118). -/
def packErrInfo (ovhbits : Nat) (w value : BitVec 8) : Word :=
  BitVec.ofNat 32 (ovhbits % 2 ^ 4 * 2 ^ 16 + w.toNat * 2 ^ 8 + value.toNat)

end Sys2Proof.Machine
end

