-- ==== Sys2Proof/Machine/Operands.lean ====
section
/-! DEFINITION. Machine/Operands.lean: the operands of a bus request: the region and the legality of its offset, the
register it names, and its data bytes. -/

namespace Sys2Proof.Machine

/-- The regions of the address map (R61). -/
inductive Region where
  | registers
  | inWindow
  | outWindow
  | unmapped
  deriving DecidableEq, Repr

/-- The registers of R21; `reserved` is every aligned offset from 0x030 to 0xFFC (R39). -/
inductive Reg where
  | id | cap | ctrl | len | cmd | status | outLen | res | fullg | resid | errInfo | errIndex
  | reserved
  deriving DecidableEq, Repr

/-- The first offset of the IN window (R61). -/
def inBase : Nat := 0x10000

/-- The first offset of the OUT window (R61). -/
def outBase : Nat := 0x80000

/-- The region that holds offset `a`: a request is decoded by its first byte's offset (R61, R65). -/
def region (a : Offset) : Region :=
  if a.toNat < 0x01000 then .registers
  else if a.toNat < 0x10000 then .unmapped
  else if a.toNat < 0x20000 then .inWindow
  else if a.toNat < 0x80000 then .unmapped
  else .outWindow

/-- `legal_align(a, w)`: a register access is 4 bytes wide and aligned (R68); any other access is naturally aligned
(R69). -/
def legalAlign (a : Offset) (w : Nat) : Bool :=
  match region a with
  | .registers => w == 4 && a.toNat % 4 == 0
  | _          => a.toNat % w == 0

/-- The register at an aligned offset of the register region (R21, R39). -/
def regAt (a : Offset) : Reg :=
  match a.toNat with
  | 0x000 => .id
  | 0x004 => .cap
  | 0x008 => .ctrl
  | 0x00C => .len
  | 0x010 => .cmd
  | 0x014 => .status
  | 0x018 => .outLen
  | 0x01C => .res
  | 0x020 => .fullg
  | 0x024 => .resid
  | 0x028 => .errInfo
  | 0x02C => .errIndex
  | _     => .reserved

/-- Byte `t` of a word of port data, byte 0 the least significant (R63). -/
def byteOf (v : Word) (t : Nat) : Byte := v.extractLsb' (8 * t) 8

/-- The `w` data bytes of a write, the byte for the lowest offset first (R63, R70).
WDATA bits above 8w-1 are ignored. -/
def dataBytes (w : Nat) (v : Word) : List Byte := (List.range w).map (byteOf v)

/-- The read data of bytes, the byte of the lowest offset least significant and the bits above them 0 (R63, R70). -/
def assemble : List Byte → Word
  | []      => 0
  | b :: bs => (assemble bs <<< 8) ||| b.setWidth 32

/-- OUT_CAP = 8 * IN_CAP (R10). -/
def State.outCap (s : State) : Nat := 8 * s.inCap

/-- The buffer index of byte `t` of an access at offset `a` of the IN window (R61). -/
def inIndex (a : Offset) (t : Nat) : Nat := a.toNat - inBase + t

/-- The buffer index of byte `t` of an access at offset `a` of the OUT window (R61). -/
def outIndex (a : Offset) (t : Nat) : Nat := a.toNat - outBase + t

/-- Whether at least one byte of the access lies inside IN[0..IN_CAP-1] or OUT[0..OUT_CAP-1] (R67). -/
def touchesBuffer (s : State) (a : Offset) (w : Nat) : Bool :=
  match region a with
  | .inWindow  => (List.range w).any fun t => decide (inIndex a t < s.inCap)
  | .outWindow => (List.range w).any fun t => decide (outIndex a t < s.outCap)
  | _          => false

/-- `droppable(a, w)`: the target is CTRL, LEN or CMD, or a byte of a buffer (R67, R236). -/
def droppable (s : State) (a : Offset) (w : Nat) : Bool :=
  match region a with
  | .registers => regAt a == .ctrl || regAt a == .len || regAt a == .cmd
  | _          => touchesBuffer s a w

end Sys2Proof.Machine
end

