-- ==== Sys2Proof/Machine/Ops.lean ====
section
/-! DEFINITION. Machine/Ops.lean: the shared operations: the buffers, the responses of the port, the registers, and the
accept and the two completions of a command. -/

namespace Sys2Proof.Machine

/-! ### The buffers -/

/-- The byte at index `i`, or none where it has not been written since reset (R232). -/
def Memory.read? : Memory → Nat → Option Byte
  | [], _ => none
  | (a, b) :: m, i => if a = i then some b else Memory.read? m i

/-- Write one byte, keeping the indices strictly rising. -/
def Memory.write : Memory → Nat → Byte → Memory
  | [], i, b => [(i, b)]
  | (a, c) :: m, i, b =>
    if i < a then (i, b) :: (a, c) :: m
    else if i = a then (i, b) :: m
    else (a, c) :: Memory.write m i b

/-- Write bytes at consecutive indices from `i`. -/
def Memory.writeFrom : Memory → Nat → List Byte → Memory
  | m, _, [] => m
  | m, i, b :: bs => Memory.writeFrom (Memory.write m i b) (i + 1) bs

/-- Write bytes at consecutive indices from `i`, ignoring those at or beyond capacity `cap` (R67, R72). -/
def Memory.writeBelow (cap : Nat) : Memory → Nat → List Byte → Memory
  | m, _, [] => m
  | m, i, b :: bs => Memory.writeBelow cap (if i < cap then Memory.write m i b else m) (i + 1) bs

/-- The indices rise strictly and none is below `lo`. -/
def Memory.sortedFrom : Nat → Memory → Bool
  | _, [] => true
  | lo, (a, _) :: m => decide (lo ≤ a) && Memory.sortedFrom (a + 1) m

/-- The canonical form: indices strictly rising.
An unlisted byte has no value, so no entry can equal what it reads as. -/
def Memory.wf (m : Memory) : Bool := Memory.sortedFrom 0 m

/-- Every listed index exists in a buffer of capacity `cap` (R40, R41). -/
def Memory.below (cap : Nat) (m : Memory) : Bool := m.all fun c => decide (c.1 < cap)

/-- The lowest index below `count` that has not been written. -/
def Memory.firstUnwritten (m : Memory) (count : Nat) : Option Nat :=
  (List.range count).find? fun i => (Memory.read? m i).isNone

/-- The elements `m[0..count-1]`, where all of them are written. -/
def Memory.elements (m : Memory) (count : Nat) : List Byte :=
  (List.range count).map fun i => (Memory.read? m i).getD 0

/-! ### The responses of the port -/

/-- A legal read's response: RDATA, and ERR = 0 (R66). -/
def respond (rdata : Word) (s : State) : State :=
  { s with resp := { rdata := rdata, err := false } }

/-- A legal write's response: ERR = 0 (R67).
No rule states its RDATA, so it is a free value (log 5). -/
def acknowledge (s : State) : State :=
  { s with resp := { rdata := Config.freeWord s.draws, err := false }, draws := s.draws + 1 }

/-- The bus error: ERR = 1, RDATA = 0, no state change (R74).
It is what the port does with a request it cannot perform, the nearest thing to taking an exception (R200, R210). -/
def busError (s : State) : State :=
  { s with resp := { rdata := 0, err := true } }

/-! ### The registers -/

/-- The value register `r` reads as (R21 to R39). -/
def readReg (r : Reg) (s : State) : Word :=
  match r with
  | .id       => Config.idWord
  | .cap      => capWord s
  | .ctrl     => ctrlWord s
  | .len      => s.len
  | .cmd      => 0
  | .status   => statusWord s
  | .outLen   => s.outLen
  | .res      => s.res
  | .fullg    => s.fullg
  | .resid    => s.resid
  | .errInfo  => s.errInfo
  | .errIndex => s.errIndex
  | .reserved => 0

/-- A dropped write: WDROP is set and nothing else changes (R67, R236). -/
def setDrop (s : State) : State := { s with wdrop := true }

/-- Accept of command `op`: the snapshot is taken, BUSY is set, and DONE, ECODE and the result and error registers
are cleared (R112).
The datapath registers are set to their start values, as they are at each command start (R231, R156, R180). -/
def acceptCommand (op : BitVec 4) (s : State) : State :=
  { s with
    snap := { op := op, w := s.width, elen := s.len }
    busy := true, done := false, ecode := 0
    outLen := 0, res := 0, fullg := 0, resid := 0, errInfo := 0, errIndex := 0
    shifter := Shifter.start, packer := Packer.start, subPhase := .validate }

/-- A write with opcode `op` to CMD while BUSY = 0: OP 0 is NOP and changes nothing (R113), any other OP is accepted
(R111, R112). -/
def startCommand (op : BitVec 4) (s : State) : State :=
  if op = 0 then s else acceptCommand op s

/-- The host request that writes command `op` to CMD: dropped while BUSY = 1 (R114), else R111. -/
def commandRequest (op : BitVec 4) (s : State) : Host.Outcome State Fault Refusal :=
  if s.busy then .next (acknowledge (setDrop s)) else .next (acknowledge (startCommand op s))

/-- A legal write of `v` to register `r` that is not dropped (R22 to R39). -/
def writeReg (r : Reg) (v : Word) (s : State) : State :=
  match r with
  | .ctrl   => { s with width := v.extractLsb' 0 8 }
  | .len    => { s with len := v }
  | .cmd    => startCommand (v.extractLsb' 0 4) s
  | .status => writeStatus v s
  | .id | .cap | .outLen | .res | .fullg | .resid | .errInfo | .errIndex | .reserved => s

/-! ### Host reads and writes -/

/-- Byte `t` of a host read of the IN window at index `i`: 0 beyond capacity, a free draw where unwritten
(R66, R232). -/
def inReadByte (s : State) (t i : Nat) : Byte :=
  if i < s.inCap then (Memory.read? s.inBuf i).getD (Config.freeByte (s.draws + t)) else 0

/-- Byte `t` of a host read of the OUT window at index `i`: 0 beyond capacity, a free draw where unwritten or while
BUSY = 1 (R66, R80, R232). -/
def outReadByte (s : State) (t i : Nat) : Byte :=
  if i < s.outCap then
    if s.busy then Config.freeByte (s.draws + t)
    else (Memory.read? s.outBuf i).getD (Config.freeByte (s.draws + t))
  else 0

/-- The data of a legal read of `w` bytes at offset `a` (R66). -/
def readData (w : Nat) (a : Offset) (s : State) : Word :=
  match region a with
  | .registers => readReg (regAt a) s
  | .inWindow  => assemble ((List.range w).map fun t => inReadByte s t (inIndex a t))
  | .outWindow => assemble ((List.range w).map fun t => outReadByte s t (outIndex a t))
  | .unmapped  => 0

/-- `MemRead(a, w)` (R66): a bus error, or the data; a read changes no state of the block (R76).
A read of `w` bytes uses up `w` free draws, needed or not (log 6). -/
def busRead (w : Nat) (a : Offset) (s : State) : Host.Outcome State Fault Refusal :=
  if legalAlign a w then .next { respond (readData w a s) s with draws := s.draws + w }
  else .next (busError s)

/-- The effect of a legal write that is not dropped (R67). -/
def performWrite (w : Nat) (a : Offset) (v : Word) (s : State) : State :=
  match region a with
  | .registers => writeReg (regAt a) v s
  | .inWindow  => { s with inBuf := Memory.writeBelow s.inCap s.inBuf (inIndex a 0) (dataBytes w v) }
  | .outWindow => { s with outBuf := Memory.writeBelow s.outCap s.outBuf (outIndex a 0) (dataBytes w v) }
  | .unmapped  => s

/-- `MemWrite(a, w, v)` (R67): a bus error, a dropped write, or the write performed. -/
def busWrite (w : Nat) (a : Offset) (v : Word) (s : State) : Host.Outcome State Fault Refusal :=
  if legalAlign a w then
    if s.busy && droppable s a w then .next (acknowledge (setDrop s))
    else .next (acknowledge (performWrite w a v s))
  else .next (busError s)

/-! ### The completions -/

/-- The registers after a completion without error (R117). -/
def completeOk (out : List Byte) (outLen : Nat) (res : Word) (fullg : Nat) (resid : Word) (s : State) : State :=
  { s with
    outBuf := Memory.writeFrom s.outBuf 0 out
    outLen := BitVec.ofNat 32 outLen, res := res, fullg := BitVec.ofNat 32 fullg, resid := resid
    errInfo := 0, errIndex := 0, ecode := 0
    busy := false, done := true }

/-- The registers after a completion with error `code`: the nearest thing to taking an exception (R118, R200).
There is no return: the next accept clears it (R212). -/
def completeErr (code : BitVec 4) (value : BitVec 8) (ovhbits index : Nat) (s : State) : State :=
  { s with
    outLen := 0, res := 0, fullg := 0, resid := 0
    errInfo := packErrInfo ovhbits s.snap.w value, errIndex := BitVec.ofNat 32 index, ecode := code
    busy := false, done := true }

/-- RST: one atomic transition to the reset state, in any state and in particular during BUSY (R230, R233).
The parameter, the events to come, the count of draws and the record of the last response are not the block's
registers and stay (log 15). -/
def resetBlock (s : State) : State :=
  { State.resetWith s.inCap with resp := s.resp, inputs := s.inputs, draws := s.draws }

end Sys2Proof.Machine
end

