-- ==== Sys2Proof/Machine/Bus.lean ====
section
/-! DEFINITION. Machine/Bus.lean: the meanings of the eight bus requests (R98). -/

namespace Sys2Proof.Machine

/-- RD8: a host read of 1 byte (R66). -/
def execRd8 (addr : Offset) (s : State) : Host.Outcome State Fault Refusal := busRead 1 addr s

/-- RD16: a host read of 2 bytes (R66). -/
def execRd16 (addr : Offset) (s : State) : Host.Outcome State Fault Refusal := busRead 2 addr s

/-- RD32: a host read of 4 bytes (R66). -/
def execRd32 (addr : Offset) (s : State) : Host.Outcome State Fault Refusal := busRead 4 addr s

/-- Code 0b011: SIZE = 0b11 is a bus error anywhere (R74). -/
def execIllegalBus3 (s : State) : Host.Outcome State Fault Refusal := .next (busError s)

/-- WR8: a host write of 1 byte (R67). -/
def execWr8 (addr : Offset) (wdata : Word) (s : State) : Host.Outcome State Fault Refusal :=
  busWrite 1 addr wdata s

/-- WR16: a host write of 2 bytes (R67). -/
def execWr16 (addr : Offset) (wdata : Word) (s : State) : Host.Outcome State Fault Refusal :=
  busWrite 2 addr wdata s

/-- WR32: a host write of 4 bytes (R67); at CMD it is the command of its word (R104). -/
def execWr32 (addr : Offset) (wdata : Word) (s : State) : Host.Outcome State Fault Refusal :=
  busWrite 4 addr wdata s

/-- Code 0b111: SIZE = 0b11 is a bus error anywhere (R74). -/
def execIllegalBus7 (s : State) : Host.Outcome State Fault Refusal := .next (busError s)

end Sys2Proof.Machine
end

