-- ==== Sys2Proof/Machine/GroupSizer.lean ====
section
/-! DEFINITION. Machine/GroupSizer.lean: the group-size calculator and the length and truncation logic. -/

namespace Sys2Proof.Machine

/-- The four values of `GroupConsts(n)` (R130). -/
structure GroupSizes where
  gcd : Nat
  lcm : Nat
  sgs : Nat
  ogs : Nat
  deriving DecidableEq, Repr

/-- `GroupConsts(n)`: LCM = lcm(8, n), OGS = LCM/8, SGS = LCM/n, GCD = gcd(8, n) (R130). -/
def groupConsts (n : Nat) : GroupSizes :=
  { gcd := Nat.gcd 8 n, lcm := Nat.lcm 8 n, sgs := Nat.lcm 8 n / n, ogs := Nat.lcm 8 n / 8 }

/-- The calculator's datapath, which needs no divider (R131). -/
def calculator (n : BitVec 3) : GroupSizes :=
  let tz := if n.getLsbD 0 then 0 else if n.getLsbD 1 then 1 else 2
  let ogs := n.toNat >>> tz
  { gcd := 1 <<< tz, lcm := ogs <<< 3, sgs := 8 >>> tz, ogs := ogs }

/-- The RES word of group constants (R34, R132). -/
def resWord (g : GroupSizes) : Word := packRes g.gcd g.lcm g.sgs g.ogs

/-- Whether `w` is a legal symbol width: `1 ≤ W ≤ 7` (R133). -/
def legalWidth (w : BitVec 8) : Bool := 1 ≤ w.toNat && w.toNat ≤ Config.maxWidth

/-- The length quantities of R135 and R136: residuals are `rin` of the input's unit and `rout` of the output's. -/
structure Lengths where
  fullGroups  : Nat
  totalGroups : Nat
  rin         : Nat
  rout        : Nat
  outLen      : Nat
  deriving DecidableEq, Repr

/-- The encode length logic for `l` input octets at width `n` (R135). -/
def encLen (n l : Nat) : Lengths :=
  let g := groupConsts n
  let rin := l % g.ogs
  let rout := ceilDiv (rin * 8) n
  { fullGroups := l / g.ogs, totalGroups := ceilDiv l g.ogs, rin := rin, rout := rout
    outLen := l / g.ogs * g.sgs + rout }

/-- The decode length logic for `m` input symbols at width `n` (R136). -/
def decLen (n m : Nat) : Lengths :=
  let g := groupConsts n
  let rin := m % g.sgs
  let rout := rin * n / 8
  { fullGroups := m / g.sgs, totalGroups := ceilDiv m g.sgs, rin := rin, rout := rout
    outLen := m / g.sgs * g.ogs + rout }

/-- The overhang bit count `h = M*n - 8*out_len` (R142). -/
def overhangBits (n m : Nat) : Nat := m * n - 8 * (decLen n m).outLen

/-- Whether a symbol count is the length of some encoder output: `h < n` (R143). -/
def lengthValid (n m : Nat) : Bool := overhangBits n m < n

/-- The RESID word of a length computation (R36, R135, R136). -/
def residWord (l : Lengths) : Word := packResid (l.rin != 0) l.rout l.rin

end Sys2Proof.Machine
end

