-- ==== Sys2Proof/Machine/Encoder.lean ====
section
/-! DEFINITION. Machine/Encoder.lean: the encoder's function (R150 to R155) and the shifter's datapath (R156 to R160). -/

namespace Sys2Proof.Machine

/-- The `width` stream bits from bit `start`, the first the most significant, as a number (R14, R151, R173, R178). -/
def windowValue (bit : Nat → Bool) (start : Nat) : Nat → Nat
  | 0 => 0
  | width + 1 => 2 * windowValue bit start width + (bit (start + width)).toNat

/-- `Bbit(B, k)`: stream bit `k` of a byte sequence, 0 beyond its end (R14). -/
def byteBit (bs : List Byte) (k : Nat) : Bool :=
  match bs[k / 8]? with
  | some b => b.getLsbD (7 - k % 8)
  | none   => false

/-- `Symbol(IN, L, n, i)` (R151). -/
def symbolAt (bs : List Byte) (n i : Nat) : Nat := windowValue (byteBit bs) (i * n) n

/-- The symbols of a byte sequence at width `n`, each in a byte, right-aligned (R151, R152). -/
def encodeBytes (n : Nat) (bs : List Byte) : List Byte :=
  (List.range (encLen n bs.length).outLen).map fun i => BitVec.ofNat 8 (symbolAt bs n i)

/-- What one command's computation gives (R115).
`stopped` is for a snapshot to which the rules give no result. -/
inductive ExecResult where
  | ok (out : List Byte) (outLen : Nat) (res : GroupSizes) (fullg : Nat) (resid : Word)
  | err (code : BitVec 4) (value : BitVec 8) (ovhbits index : Nat)
  | stopped (why : Fault)
  deriving DecidableEq, Repr

/-- `EncExec(n, L, IN)` on the input octets (R150). -/
def encExec (n : Nat) (bs : List Byte) : ExecResult :=
  let l := encLen n bs.length
  .ok (encodeBytes n bs) l.outLen (groupConsts n) l.fullGroups (residWord l)

/-- The current byte, or the virtual zero byte of the padded tail (R156). -/
def shifterByte (bs : List Byte) (sh : Shifter) : Nat := (bs[sh.pos.toNat]?.getD 0).toNat

/-- One step of the shifter at width `n`, with the symbol it emits: R157 where `avail ≥ need`, else R158. -/
def shifterStep (n : Nat) (bs : List Byte) (sh : Shifter) : Shifter × Option Byte :=
  let b := shifterByte bs sh
  let avail := 8 - sh.off.toNat
  let need := n - sh.cw.toNat
  if avail ≥ need then
    let hi := (b >>> (avail - need)) % 2 ^ need
    let symbol := (sh.carry.toNat <<< need) ||| hi
    let off := sh.off.toNat + need
    ({ pos := if off = 8 then sh.pos + 1 else sh.pos
       off := if off = 8 then 0 else BitVec.ofNat 4 off
       carry := 0, cw := 0, k := sh.k + 1 }, some (BitVec.ofNat 8 symbol))
  else
    ({ sh with
       pos := sh.pos + 1, off := 0
       carry := BitVec.ofNat 7 ((sh.carry.toNat <<< avail) ||| (b % 2 ^ avail))
       cw := BitVec.ofNat 3 (sh.cw.toNat + avail) }, none)

/-- The shifter's run with at most `fuel` steps: it stops when `k = out_len` (R160).
The list holds the symbols emitted, in order. -/
def shifterRun (n : Nat) (bs : List Byte) (outLen : Nat) : Nat → Shifter → Shifter × List Byte
  | 0, sh => (sh, [])
  | fuel + 1, sh =>
    if sh.k.toNat < outLen then
      let (sh', o) := shifterStep n bs sh
      let (sh'', os) := shifterRun n bs outLen fuel sh'
      (sh'', o.toList ++ os)
    else (sh, [])

/-- A whole run of ENC's datapath: `out_len` emit steps and at most L carry steps (R156, R160). -/
def shifterEncode (n : Nat) (bs : List Byte) : Shifter × List Byte :=
  let outLen := (encLen n bs.length).outLen
  shifterRun n bs outLen (outLen + bs.length) Shifter.start

end Sys2Proof.Machine
end

