-- ==== Sys2Proof/Machine/Decoder.lean ====
section
/-! DEFINITION. Machine/Decoder.lean: the decoder's function with the canonical-form checker (R170 to R179), and the
packer's datapath (R177, R180 to R183). -/

namespace Sys2Proof.Machine

/-- `Sbit(S, n, k)`: stream bit `k` of a symbol sequence at width `n`, 0 beyond its end (R14). -/
def symbolBit (syms : List Byte) (n k : Nat) : Bool :=
  match syms[k / n]? with
  | some s => s.getLsbD (n - 1 - k % n)
  | none   => false

/-- `Byte(IN, M, n, i)` (R173). -/
def decodedByte (syms : List Byte) (n i : Nat) : Nat := windowValue (symbolBit syms n) (8 * i) 8

/-- The whole bytes of a symbol sequence at width `n` (R173, R174). -/
def decodeSymbols (n : Nat) (syms : List Byte) : List Byte :=
  (List.range (decLen n syms.length).outLen).map fun i => BitVec.ofNat 8 (decodedByte syms n i)

/-- `Overhang(IN, M, n)`: the stream bits beyond the last whole byte (R178). -/
def overhang (syms : List Byte) (n : Nat) : Nat :=
  windowValue (symbolBit syms n) (8 * (decLen n syms.length).outLen) (overhangBits n syms.length)

/-- Whether a symbol byte is below `2^n` (R172). -/
def validSymbol (n : Nat) (s : Byte) : Bool := s.toNat < 2 ^ n

/-- The first symbol that is not below `2^n`, with its index (R172). -/
def firstInvalid (n : Nat) (syms : List Byte) : Option (Byte × Nat) :=
  syms.zipIdx.find? fun p => !validSymbol n p.1

/-- `DecExec(n, M, IN, write)` on the input symbols (R170). -/
def decExec (n : Nat) (syms : List Byte) (write : Bool) : ExecResult :=
  match firstInvalid n syms with
  | some (s, q) => .err 2 s 0 q
  | none =>
    let l := decLen n syms.length
    let v := overhang syms n
    if v ≠ 0 then .err 3 (BitVec.ofNat 8 v) (overhangBits n syms.length) 0
    else .ok (if write then decodeSymbols n syms else []) l.outLen (groupConsts n) l.fullGroups (residWord l)

/-- One step of the packer on symbol `s`, with the byte it emits: R181 where the symbol fits, else R182. -/
def packerStep (n : Nat) (s : Byte) (pk : Packer) : Packer × Option Byte :=
  let off := pk.off.toNat
  if off + n ≤ 8 then
    let cur := (pk.cur.toNat <<< n) ||| s.toNat
    if off + n = 8 then
      ({ q := pk.q + 1, off := 0, cur := 0, j := pk.j + 1 }, some (BitVec.ofNat 8 cur))
    else
      ({ pk with q := pk.q + 1, off := BitVec.ofNat 3 (off + n), cur := BitVec.ofNat 7 cur }, none)
  else
    let t := 8 - off
    ({ q := pk.q + 1, off := BitVec.ofNat 3 (n - t), cur := BitVec.ofNat 7 (s.toNat % 2 ^ (n - t)), j := pk.j + 1 },
      some (BitVec.ofNat 8 ((pk.cur.toNat <<< t) ||| (s.toNat >>> (n - t)))))

/-- The packer over a symbol sequence, with the bytes emitted (R180 to R182). -/
def packerRun (n : Nat) : List Byte → Packer → Packer × List Byte
  | [], pk => (pk, [])
  | s :: syms, pk =>
    let (pk', o) := packerStep n s pk
    let (pk'', os) := packerRun n syms pk'
    (pk'', o.toList ++ os)

/-- The VALIDATE phase: the packer with each symbol checked as it enters, stopping at the first that fails (R177). -/
def packerValidate (n : Nat) : List Byte → Packer → Packer × Option Byte
  | [], pk => (pk, none)
  | s :: syms, pk =>
    if validSymbol n s then packerValidate n syms (packerStep n s pk).1 else (pk, some s)

/-- The two-phase run of DEC and CHK (R177): the packer's end state, the sub-phase the run ended in, and its result,
with the canonical test on the leftover carry (R183). -/
def packerDecode (n : Nat) (syms : List Byte) (write : Bool) : Packer × SubPhase × ExecResult :=
  let l := decLen n syms.length
  let done := fun out => ExecResult.ok out l.outLen (groupConsts n) l.fullGroups (residWord l)
  match packerValidate n syms Packer.start with
  | (pk, some s) => (pk, .validate, .err 2 s 0 pk.q.toNat)
  | (pk, none) =>
    if pk.cur ≠ 0 then (pk, .validate, .err 3 (pk.cur.setWidth 8) pk.off.toNat 0)
    else if write then
      let (pk', out) := packerRun n syms Packer.start
      (pk', .pack, done out)
    else (pk, .validate, done [])

end Sys2Proof.Machine
end

