-- ==== Sys2Proof/Machine/Engine.lean ====
section
/-! DEFINITION. Machine/Engine.lean: the engine's one step, the completion of the running command. -/

namespace Sys2Proof.Machine

/-- `Exec(OP, W, ELEN, IN)` after the OP, width and length checks: ENC, DEC or CHK on the elements IN[0..ELEN-1]
(R115, R78).
A byte of them that is unwritten is a fault of the program (R232, R239). -/
def execElements (op : BitVec 4) (n elen : Nat) (inBuf : Memory) : ExecResult :=
  match Memory.firstUnwritten inBuf elen with
  | some i => .stopped (.engineReadUnwritten i)
  | none =>
    let elements := Memory.elements inBuf elen
    if op = 2 then encExec n elements
    else if op = 3 then decExec n elements true
    else decExec n elements false

/-- `Exec(OP, W, ELEN, IN)` (R115); the order of the tests is the error priority of R208. -/
def engineExec (inCap : Nat) (snap : Snap) (inBuf : Memory) : ExecResult :=
  if snap.op = 0 then .stopped .noCommand
  else if 5 ≤ snap.op.toNat then .err 5 (snap.op.setWidth 8) 0 0
  else if !legalWidth snap.w then .err 1 0 0 0
  else if snap.op = 1 then .ok [] 0 (groupConsts snap.w.toNat) 0 0
  else if inCap < snap.elen.toNat then .err 4 0 0 0
  else execElements snap.op snap.w.toNat snap.elen.toNat inBuf

/-- The datapath registers at the end of the run that computes the command (R156 to R160, R177, R180 to R183).
A command that fails its OP, width or length check, and GSZ, take no datapath step (R246).
They are hidden: no outcome depends on them (R20, R50; log 9). -/
def runDatapath (s : State) : State :=
  let n := s.snap.w.toNat
  let elements := Memory.elements s.inBuf s.snap.elen.toNat
  if !legalWidth s.snap.w || s.inCap < s.snap.elen.toNat then s
  else if s.snap.op = 2 then { s with shifter := (shifterEncode n elements).1 }
  else if s.snap.op = 3 || s.snap.op = 4 then
    let (pk, phase, _) := packerDecode n elements (s.snap.op = 3)
    { s with packer := pk, subPhase := phase }
  else s

/-- The completion of the running command (R116): R117 or R118. -/
def completion (s : State) : Host.Outcome State Fault Refusal :=
  match engineExec s.inCap s.snap s.inBuf with
  | .ok out outLen res fullg resid => .next (completeOk out outLen (resWord res) fullg resid (runDatapath s))
  | .err code value ovhbits index  => .next (completeErr code value ovhbits index (runDatapath s))
  | .stopped why                   => .fault why

/-- The engine's turn: the completion while BUSY = 1, and nothing while BUSY = 0, when no step is enabled
(R116, R120; log 14). -/
def engineTurn (s : State) : Host.Outcome State Fault Refusal :=
  if s.busy then completion s else .next s

end Sys2Proof.Machine
end

