-- ==== Sys2Proof/Machine/Commands.lean ====
section
/-! DEFINITION. Machine/Commands.lean: the meanings of the sixteen command words (R92).
A command's request is performed here; its result is the engine's completion (R116), in Machine/Engine.lean. -/

namespace Sys2Proof.Machine

/-- NOP (R113): nothing while BUSY = 0, dropped while BUSY = 1 (R114). -/
def execNop (s : State) : Host.Outcome State Fault Refusal := commandRequest 0x0#4 s

/-- GSZ (R134): accepted (R112); the completion computes the group constants. -/
def execGsz (s : State) : Host.Outcome State Fault Refusal := commandRequest 0x1#4 s

/-- ENC (R150): accepted (R112); the completion encodes IN[0..LEN-1]. -/
def execEnc (s : State) : Host.Outcome State Fault Refusal := commandRequest 0x2#4 s

/-- DEC (R170): accepted (R112); the completion decodes IN[0..LEN-1]. -/
def execDec (s : State) : Host.Outcome State Fault Refusal := commandRequest 0x3#4 s

/-- CHK (R171): accepted (R112); the completion validates IN[0..LEN-1]. -/
def execChk (s : State) : Host.Outcome State Fault Refusal := commandRequest 0x4#4 s

/-- OP 0x5 (R119): accepted (R112); the completion is BadCommand. -/
def execReservedOp5 (s : State) : Host.Outcome State Fault Refusal := commandRequest 0x5#4 s

/-- OP 0x6 (R119): accepted (R112); the completion is BadCommand. -/
def execReservedOp6 (s : State) : Host.Outcome State Fault Refusal := commandRequest 0x6#4 s

/-- OP 0x7 (R119): accepted (R112); the completion is BadCommand. -/
def execReservedOp7 (s : State) : Host.Outcome State Fault Refusal := commandRequest 0x7#4 s

/-- OP 0x8 (R119): accepted (R112); the completion is BadCommand. -/
def execReservedOp8 (s : State) : Host.Outcome State Fault Refusal := commandRequest 0x8#4 s

/-- OP 0x9 (R119): accepted (R112); the completion is BadCommand. -/
def execReservedOp9 (s : State) : Host.Outcome State Fault Refusal := commandRequest 0x9#4 s

/-- OP 0xA (R119): accepted (R112); the completion is BadCommand. -/
def execReservedOpA (s : State) : Host.Outcome State Fault Refusal := commandRequest 0xA#4 s

/-- OP 0xB (R119): accepted (R112); the completion is BadCommand. -/
def execReservedOpB (s : State) : Host.Outcome State Fault Refusal := commandRequest 0xB#4 s

/-- OP 0xC (R119): accepted (R112); the completion is BadCommand. -/
def execReservedOpC (s : State) : Host.Outcome State Fault Refusal := commandRequest 0xC#4 s

/-- OP 0xD (R119): accepted (R112); the completion is BadCommand. -/
def execReservedOpD (s : State) : Host.Outcome State Fault Refusal := commandRequest 0xD#4 s

/-- OP 0xE (R119): accepted (R112); the completion is BadCommand. -/
def execReservedOpE (s : State) : Host.Outcome State Fault Refusal := commandRequest 0xE#4 s

/-- OP 0xF (R119): accepted (R112); the completion is BadCommand. -/
def execReservedOpF (s : State) : Host.Outcome State Fault Refusal := commandRequest 0xF#4 s

end Sys2Proof.Machine
end

