-- ==== Sys2Proof/Machine/HostOps.lean ====
section
/-! DEFINITION. Machine/HostOps.lean: the host assembly of R100 to R103, as events of the order of R79, and one turn of
the host's polling loop. -/

namespace Sys2Proof.Machine

/-- The offset a register name stands for (R21, R100); `reserved` names the first offset of R39. -/
def regOffset : Reg → Offset
  | .id       => 0x000
  | .cap      => 0x004
  | .ctrl     => 0x008
  | .len      => 0x00C
  | .cmd      => 0x010
  | .status   => 0x014
  | .outLen   => 0x018
  | .res      => 0x01C
  | .fullg    => 0x020
  | .resid    => 0x024
  | .errInfo  => 0x028
  | .errIndex => 0x02C
  | .reserved => 0x030

/-- A host operation: the six bus operations of R100 and the pseudo-instructions of R102. -/
inductive HostOp where
  | rd8 (off : Offset) | rd16 (off : Offset) | rd32 (off : Offset)
  | wr8 (off : Offset) (v : Word) | wr16 (off : Offset) (v : Word) | wr32 (off : Offset) (v : Word)
  | setw (n : Word) | setlen (n : Word)
  | nop | gsz | enc | dec | chk | clrdrop
  | load (i : Nat) (bs : List Byte)
  | fill (i count : Nat) (b : Byte)
  | wait
  deriving DecidableEq, Repr

/-- A bus request of `size` at `off` (R101). -/
def readRequest (size : BitVec 2) (off : Offset) : BusReq := { we := false, size := size, addr := off, wdata := 0 }

/-- A bus request of `size` at `off` with data `v` (R101). -/
def writeRequest (size : BitVec 2) (off : Offset) (v : Word) : BusReq :=
  { we := true, size := size, addr := off, wdata := v }

/-- One-byte writes at consecutive offsets from `off` (R102). -/
def writeBytes (off : Nat) (bs : List Byte) : List BusReq :=
  bs.zipIdx.map fun p => writeRequest 0b00 (BitVec.ofNat 20 (off + p.2)) (p.1.setWidth 32)

/-- The expansion of a host operation (R101, R102) into events.
`wait` is the one that is not a fixed list of requests: it is the polling loop of R103, here with `late`, the number of
further reads that find BUSY = 1 before the engine moves (log 19). -/
def HostOp.expand (late : Nat) : HostOp → List Input
  | .rd8 off     => [.bus (readRequest 0b00 off)]
  | .rd16 off    => [.bus (readRequest 0b01 off)]
  | .rd32 off    => [.bus (readRequest 0b10 off)]
  | .wr8 off v   => [.bus (writeRequest 0b00 off v)]
  | .wr16 off v  => [.bus (writeRequest 0b01 off v)]
  | .wr32 off v  => [.bus (writeRequest 0b10 off v)]
  | .setw n      => [.bus (writeRequest 0b10 (regOffset .ctrl) n)]
  | .setlen n    => [.bus (writeRequest 0b10 (regOffset .len) n)]
  | .nop         => [.bus (writeRequest 0b10 (regOffset .cmd) 0x0)]
  | .gsz         => [.bus (writeRequest 0b10 (regOffset .cmd) 0x1)]
  | .enc         => [.bus (writeRequest 0b10 (regOffset .cmd) 0x2)]
  | .dec         => [.bus (writeRequest 0b10 (regOffset .cmd) 0x3)]
  | .chk         => [.bus (writeRequest 0b10 (regOffset .cmd) 0x4)]
  | .clrdrop     => [.bus (writeRequest 0b10 (regOffset .status) 0x100)]
  | .load i bs   => (writeBytes (inBase + i) bs).map .bus
  | .fill i count b => (writeBytes (outBase + i) (List.replicate count b)).map .bus
  | .wait        => [.wait late]

/-- A host program as the events of R79; `late k` is what the `k`-th operation waits where it is a `wait`.
These are the host's own events: the engine may also move between any two of them (R64, log 1). -/
def programInputs (late : Nat → Nat) (p : List HostOp) : List Input :=
  p.zipIdx.flatMap fun op => op.1.expand (late op.2)

/-! ### The polling loop -/

/-- Whether the loop ends on the response of its read: bit 0 of the result is 0 (R103). -/
def waitEnds (s : State) : Bool := !s.resp.rdata.getLsbD 0

/-- What is left of the loop when a read has found BUSY = 1: the loop again, and before it the engine's turn where no
further read comes first (R103, R120; log 19). -/
def waitAgain : Nat → List Input
  | 0        => [.engine, .wait 0]
  | late + 1 => [.wait late]

/-- One turn of the polling loop: `rd32 STATUS`, and if bit 0 of the result is 1, the loop again (R103). -/
def waitTurn (late : Nat) (s : State) : Host.Outcome State Fault Refusal :=
  match exec (decode (readRequest 0b10 (regOffset .status))) s with
  | .next t    => .next (if waitEnds t then t else { t with inputs := waitAgain late ++ t.inputs })
  | .fault f   => .fault f
  | .refused r => .refused r

end Sys2Proof.Machine
end

