-- ==== Sys2Proof/Machine/Step.lean ====
section
/-! DEFINITION. Machine/Step.lean: one step of the machine: the next event of the total order of R79. -/

namespace Sys2Proof.Machine

/-- One step: the oldest event to come moves, and with none to come the engine does (R64, R79, R103, R120; log 1,
log 19). -/
def step (s : State) : Host.Outcome State Fault Refusal :=
  match s.inputs with
  | []              => engineTurn s
  | .bus r :: rest  => exec (decode r) { s with inputs := rest }
  | .engine :: rest => engineTurn { s with inputs := rest }
  | .wait n :: rest => waitTurn n { s with inputs := rest }
  | .rst :: rest    => .next (resetBlock { s with inputs := rest })

/-- `s` with the request that carries an opcode-table word placed before the events to come, where `step` takes its
next request (log 12). -/
def State.withFetchWord (s : State) (nbits w : Nat) : State :=
  { s with inputs := .bus (tableRequest nbits w) :: s.inputs }

end Sys2Proof.Machine
end

