-- ==== Sys2Proof/Safety.lean ====
section
/-! DEFINITION. Safety.lean: what holds of every reachable state, and what counts as a safe run of a host program. -/

namespace Sys2Proof.Machine

/-- A request the port can perform: SIZE is not 0b11 and the access is aligned as its region asks (R68, R69, R74). -/
def legalRequest (r : BusReq) : Bool := r.size != 0b11#2 && legalAlign r.addr (2 ^ r.size.toNat)

/-- The `steps` next steps are safe: none stops, and none of them, nor the state they start in, answers a bus error.
A bus error is a fault of the host program that issued the request (R210, U11), and the machine goes on (log 4). -/
def SafeRun : Nat → State → Prop
  | 0, s => s.resp.err = false
  | steps + 1, s => s.resp.err = false ∧ ∃ t, step s = .next t ∧ SafeRun steps t

/-- The state after `steps` steps, or the first stop among them. -/
def runSteps : Nat → State → Host.Outcome State Fault Refusal
  | 0, s => .next s
  | steps + 1, s =>
    match step s with
    | .next t    => runSteps steps t
    | .fault f   => .fault f
    | .refused r => .refused r

/-- The invariant of the block: what the rules say of every state that a run reaches. -/
structure Inv (s : State) : Prop where
  /-- 1 ≤ IN_CAP ≤ 65536 (R9). -/
  capacity     : Config.minInCap ≤ s.inCap ∧ s.inCap ≤ Config.maxInCap
  /-- The buffers keep their canonical form. -/
  in_wf        : s.inBuf.wf = true
  out_wf       : s.outBuf.wf = true
  /-- Only IN[0..IN_CAP-1] and OUT[0..OUT_CAP-1] exist (R40, R41). -/
  in_below     : s.inBuf.below s.inCap = true
  out_below    : s.outBuf.below s.outCap = true
  /-- ECODE values 6 to 15 are never produced (R30, R201). -/
  ecode_known  : s.ecode.toNat ≤ 5
  /-- BUSY and DONE are never both 1 (R28). -/
  not_both     : s.busy = true → s.done = false
  /-- During BUSY the results, ECODE and the error payload read 0 (R238). -/
  busy_cleared : s.busy = true → s.ecode = 0 ∧ s.outLen = 0 ∧ s.res = 0 ∧ s.fullg = 0 ∧ s.resid = 0
                   ∧ s.errInfo = 0 ∧ s.errIndex = 0
  /-- During BUSY the snapshot equals the current CTRL.WIDTH and LEN (R42) and holds an accepted OP (R111). -/
  busy_snap    : s.busy = true → s.snap.op ≠ 0 ∧ s.snap.w = s.width ∧ s.snap.elen = s.len
  /-- An error code is that of a completed command (R30), whose results are 0 (R118). -/
  error_form   : s.ecode ≠ 0 → s.done = true ∧ s.outLen = 0 ∧ s.res = 0 ∧ s.fullg = 0 ∧ s.resid = 0
  /-- Without an error the payload is 0 (R37), and only InvalidSymbol has an index (R38). -/
  payload_zero : s.ecode = 0 → s.errInfo = 0
  index_zero   : s.ecode ≠ 2 → s.errIndex = 0
  /-- OUT_LEN ≤ 8 * IN_CAP (R33) and FULLG ≤ 65536 (R140). -/
  outLen_bound : s.outLen.toNat ≤ s.outCap
  fullg_bound  : s.fullg.toNat ≤ Config.maxInCap
  /-- RIN < 8 and ROUT ≤ 8 (R36), and RESID bits 31:17 and ERR_INFO bits 31:20 read 0 (R36, R37). -/
  rin_bound    : (s.resid.extractLsb' 0 8).toNat < 8
  rout_bound   : (s.resid.extractLsb' 8 8).toNat ≤ 8
  resid_zeros  : s.resid.extractLsb' 17 15 = 0
  info_zeros   : s.errInfo.extractLsb' 20 12 = 0

end Sys2Proof.Machine
end

