-- ==== Sys2Proof/Certificates/Slice0/Obligations.lean ====
section
/-! DEFINITION. Obligations.lean: the statements for the provers.
The namespace Rules restates what the statements compare the model with, from the rules' own formulas.
Where a statement speaks of `draws`, of `resp` after a write, or of `inputs`, it speaks of the model's own fields
(log 1, log 5, log 6). -/

namespace Sys2Proof.Rules

open Sys2Proof.Machine

/-- `Bbit(B, k)` as R14 writes it: beyond the end the bytes are zero. -/
def bbit (bs : List Byte) (k : Nat) : Bool := (bs.getD (k / 8) 0).getLsbD (7 - k % 8)

/-- `Sbit(S, n, k)` as R14 writes it. -/
def sbit (syms : List Byte) (n k : Nat) : Bool := (syms.getD (k / n) 0).getLsbD (n - 1 - k % n)

/-- `Symbol(IN, L, n, i)`: the sum of R151. -/
def symbol (bs : List Byte) (n i : Nat) : Nat :=
  ∑ j ∈ Finset.range n, (bbit bs (i * n + j)).toNat <<< (n - 1 - j)

/-- `Byte(IN, M, n, i)`: the sum of R173. -/
def octet (syms : List Byte) (n i : Nat) : Nat :=
  ∑ j ∈ Finset.range 8, (sbit syms n (8 * i + j)).toNat <<< (7 - j)

/-- The encoder's `out_len = ceil_div(8*L, n)` (R137). -/
def encCount (n l : Nat) : Nat := (8 * l + n - 1) / n

/-- The decoder's `out_len = (M*n) div 8` (R137). -/
def decCount (n m : Nat) : Nat := m * n / 8

/-- The overhang bit count `h = (M*n) mod 8` (R142). -/
def ovhCount (n m : Nat) : Nat := m * n % 8

/-- `Overhang(IN, M, n)`: the sum of R178. -/
def ovhValue (syms : List Byte) (n : Nat) : Nat :=
  ∑ j ∈ Finset.range (ovhCount n syms.length),
    (sbit syms n (8 * decCount n syms.length + j)).toNat <<< (ovhCount n syms.length - 1 - j)

/-- Every symbol byte is below `2^n` (R172). -/
def ValidSymbols (n : Nat) (syms : List Byte) : Prop := ∀ s ∈ syms, s.toNat < 2 ^ n

/-- Octets per group, from the table of R132. -/
def ogs : Nat → Nat
  | 1 => 1 | 2 => 1 | 3 => 3 | 4 => 1 | 5 => 5 | 6 => 3 | 7 => 7 | _ => 0

/-- Symbols per group, from the table of R132. -/
def sgs : Nat → Nat
  | 1 => 8 | 2 => 4 | 3 => 8 | 4 => 2 | 5 => 8 | 6 => 4 | 7 => 8 | _ => 0

/-- The RES word, from the table of R132. -/
def resTable : Nat → Word
  | 1 => 0x01080801#32 | 2 => 0x02080401#32 | 3 => 0x01180803#32 | 4 => 0x04080201#32
  | 5 => 0x01280805#32 | 6 => 0x02180403#32 | 7 => 0x01380807#32 | _ => 0#32

/-- The RESID word with PARTIAL = (RIN ≠ 0) (R36). -/
def residOf (rin rout : Nat) : Word :=
  BitVec.ofNat 32 ((if rin = 0 then 0 else 0x10000) + rout * 0x100 + rin)

/-- The RESID word of an encode of `l` octets (R135). -/
def encResid (n l : Nat) : Word := residOf (l % ogs n) (encCount n (l % ogs n))

/-- The RESID word of a decode of `m` symbols (R136). -/
def decResid (n m : Nat) : Word := residOf (m % sgs n) (decCount n (m % sgs n))

/-- A legal symbol width (R133). -/
def LegalWidth (w : BitVec 8) : Prop := 1 ≤ w.toNat ∧ w.toNat ≤ 7

/-- The opcode of a command instruction (R92). -/
def opOf : Instr → Option (BitVec 4)
  | .nop => some 0x0#4 | .gsz => some 0x1#4 | .enc => some 0x2#4 | .dec => some 0x3#4 | .chk => some 0x4#4
  | .reservedOp5 => some 0x5#4 | .reservedOp6 => some 0x6#4 | .reservedOp7 => some 0x7#4
  | .reservedOp8 => some 0x8#4 | .reservedOp9 => some 0x9#4 | .reservedOpA => some 0xA#4
  | .reservedOpB => some 0xB#4 | .reservedOpC => some 0xC#4 | .reservedOpD => some 0xD#4
  | .reservedOpE => some 0xE#4 | .reservedOpF => some 0xF#4
  | .rd8 _ | .rd16 _ | .rd32 _ | .illegalBus3 _ => none
  | .wr8 _ _ | .wr16 _ _ | .wr32 _ _ | .illegalBus7 _ _ => none

/-- The widths of an access in bytes (R62). -/
def AccessWidth (w : Nat) : Prop := w = 1 ∨ w = 2 ∨ w = 4

/-- The read of `w` bytes (R98). -/
def readOf (w : Nat) (a : Offset) : Instr := if w = 1 then .rd8 a else if w = 2 then .rd16 a else .rd32 a

/-- The write of `w` bytes (R98). -/
def writeOf (w : Nat) (a : Offset) (v : Word) : Instr :=
  if w = 1 then .wr8 a v else if w = 2 then .wr16 a v else .wr32 a v

/-- A legal access, from R68 and R69. -/
def LegalAccess (w : Nat) (a : Offset) : Prop :=
  if a.toNat < 0x1000 then w = 4 ∧ a.toNat % 4 = 0 else a.toNat % w = 0

/-- A request the port can perform, from R68, R69 and R74: SIZE is its own width's exponent. -/
def LegalRequest (r : BusReq) : Prop := r.size ≠ 0b11#2 ∧ LegalAccess (2 ^ r.size.toNat) r.addr

/-- Some byte of the access lies in IN[0..IN_CAP-1] or OUT[0..8*IN_CAP-1] (R67, R236). -/
def TouchesBuffer (s : State) (w : Nat) (a : Offset) : Prop :=
  ∃ t, t < w ∧ ((0x10000 ≤ a.toNat + t ∧ a.toNat + t < 0x10000 + s.inCap)
    ∨ (0x80000 ≤ a.toNat + t ∧ a.toNat + t < 0x80000 + 8 * s.inCap))

/-- The target is CTRL, LEN, CMD or a byte of a buffer (R67, R236). -/
def Droppable (s : State) (w : Nat) (a : Offset) : Prop :=
  a.toNat = 0x8 ∨ a.toNat = 0xC ∨ a.toNat = 0x10 ∨ TouchesBuffer s w a

/-- `s` once the port has answered with ERR = 0 and some RDATA (R66, R67; log 5). -/
def answered (rdata : Word) (draws : Nat) (s : State) : State :=
  { s with resp := { rdata := rdata, err := false }, draws := draws }

/-- `s` once the port has answered a bus error: ERR = 1 and RDATA = 0 (R74). -/
def refusedByPort (s : State) : State := { s with resp := { rdata := 0, err := true } }

/-- The first LEN bytes of IN are written and hold `bs`. -/
structure InHolds (s : State) (bs : List Byte) : Prop where
  length : bs.length = s.len.toNat
  bytes  : ∀ i, i < bs.length → Memory.read? s.inBuf i = bs[i]?

/-- What no completion changes: IN_CAP, CTRL, LEN, WDROP, IN and the events to come. -/
structure Kept (s u : State) : Prop where
  inCap  : u.inCap = s.inCap
  width  : u.width = s.width
  len    : u.len = s.len
  wdrop  : u.wdrop = s.wdrop
  inBuf  : u.inBuf = s.inBuf
  inputs : u.inputs = s.inputs

/-- A command of `s` completed without error in `u` with these results (R117), OUT aside. -/
structure Completed (s u : State) (outLen : Nat) (res : Word) (fullg : Nat) (resid : Word) : Prop where
  kept     : Kept s u
  busy     : u.busy = false
  done     : u.done = true
  ecode    : u.ecode = 0
  outLen   : u.outLen = BitVec.ofNat 32 outLen
  res      : u.res = res
  fullg    : u.fullg = BitVec.ofNat 32 fullg
  resid    : u.resid = resid
  errInfo  : u.errInfo = 0
  errIndex : u.errIndex = 0
  err      : u.resp.err = false

/-- A command of `s` completed with this error in `u` (R118, R203), OUT unchanged. -/
structure Failed (s u : State) (code : BitVec 4) (value ovhbits index : Nat) : Prop where
  kept     : Kept s u
  busy     : u.busy = false
  done     : u.done = true
  ecode    : u.ecode = code
  outLen   : u.outLen = 0
  res      : u.res = 0
  fullg    : u.fullg = 0
  resid    : u.resid = 0
  errInfo  : u.errInfo = BitVec.ofNat 32 (ovhbits * 0x10000 + s.width.toNat * 0x100 + value)
  errIndex : u.errIndex = BitVec.ofNat 32 index
  outBuf   : u.outBuf = s.outBuf
  err      : u.resp.err = false

/-- The command of `i` is accepted in `s`, and the state after its completion meets `P`. -/
def CompletesWith (i : Instr) (s : State) (P : State → Prop) : Prop :=
  ∃ t u, exec i s = .next t ∧ engineTurn t = .next u ∧ P u

/-- `s` after a sequence of requests, none of which stops. -/
def performs : List BusReq → State → State → Prop
  | [], s, t      => t = s
  | r :: rs, s, t => ∃ u, exec (decode r) s = .next u ∧ performs rs u t

/-- `s` and `s'` differ at most in the datapath registers of R44 and R45 and the sub-phase of R43. -/
def SameButDatapath (s s' : State) : Prop :=
  s' = { s with shifter := s'.shifter, packer := s'.packer, subPhase := s'.subPhase }

end Sys2Proof.Rules

open Sys2Proof Sys2Proof.Machine Sys2Proof.Rules

/-! ### Encoding -/

/-- R92, R98, R101: the request that carries a well-formed instruction decodes to it, with every operand at every
value. -/
def Obligations.DecodeOfEncodeIsTheInstruction : Prop :=
  ∀ i : Instr, i.wellFormed = true → decode (encode i) = i

/-- R93, R98: encoding what a request decodes to gives the request back, but for the bits the hardware ignores:
WDATA of a read and bits 31:4 of a command word. -/
def Obligations.EncodeOfDecodeKeepsEveryBitThatCounts : Prop :=
  ∀ r : BusReq,
    encode (decode r) =
      if r.we = false then { r with wdata := 0 }
      else if r.size = 0b10#2 ∧ r.addr = 0x00010#20 then { r with wdata := r.wdata &&& 0xF#32 }
      else r

/-- R98, R105: each of the eight codes `{WE, SIZE}` selects its row. -/
def Obligations.RequestCodesSelectTheirRows : Prop :=
  ∀ (a : Offset) (v : Word),
    decode ⟨false, 0b00#2, a, v⟩ = .rd8 a ∧ decode ⟨false, 0b01#2, a, v⟩ = .rd16 a
      ∧ decode ⟨false, 0b10#2, a, v⟩ = .rd32 a ∧ decode ⟨false, 0b11#2, a, v⟩ = .illegalBus3 a
      ∧ decode ⟨true, 0b00#2, a, v⟩ = .wr8 a v ∧ decode ⟨true, 0b01#2, a, v⟩ = .wr16 a v
      ∧ decode ⟨true, 0b10#2, a, v⟩ = (if a = 0x00010#20 then decodeCmd v else .wr32 a v)
      ∧ decode ⟨true, 0b11#2, a, v⟩ = .illegalBus7 a v

/-- R92, R105: bits 3:0 of a word written to CMD are the opcode of the command it decodes to, for all 16 patterns. -/
def Obligations.CommandWordSelectsByItsOpField : Prop :=
  ∀ v : Word, opOf (decodeCmd v) = some (v.extractLsb' 0 4)

/-- R93: words that differ only in bits 31:4 are the same command. -/
def Obligations.CommandWordHighBitsHaveNoEffect : Prop :=
  (∀ v w : Word, v.extractLsb' 0 4 = w.extractLsb' 0 4 →
    decodeCmd v = decodeCmd w ∧ ∀ s, exec (.wr32 0x00010#20 v) s = exec (.wr32 0x00010#20 w) s)
    ∧ decodeCmd 0xFFFFFFF2#32 = .enc

/-- R92, R98, R101: requests written out from the encodings decode to the instructions they stand for. -/
def Obligations.SampleRequestsDecode : Prop :=
  decode ⟨true, 0b10#2, 0x00010#20, 0x00000002#32⟩ = .enc
    ∧ decode ⟨true, 0b10#2, 0x00010#20, 0x00000000#32⟩ = .nop
    ∧ decode ⟨true, 0b10#2, 0x00010#20, 0x0000000F#32⟩ = .reservedOpF
    ∧ decode ⟨true, 0b10#2, 0x00008#20, 0x00000006#32⟩ = .wr32 0x00008#20 0x00000006#32
    ∧ decode ⟨true, 0b00#2, 0x10000#20, 0x0000004D#32⟩ = .wr8 0x10000#20 0x0000004D#32
    ∧ decode ⟨false, 0b10#2, 0x00014#20, 0x00000000#32⟩ = .rd32 0x00014#20
    ∧ decode ⟨false, 0b01#2, 0x80000#20, 0x00000000#32⟩ = .rd16 0x80000#20
    ∧ decode ⟨true, 0b11#2, 0x00000#20, 0x00000000#32⟩ = .illegalBus7 0x00000#20 0x00000000#32

/-- R101, R102, R103: every host operation expands to the requests of the table, for every operand, and `wait` to the
polling loop, whose turns StepGivesTheEngineItsTurnAndTakesReset states; `late`, how many of its reads come before the
completion, is the model's parameter (log 19) and reaches no other operation.
ADDR has 20 bits (R98), so an offset counts modulo 2^20. -/
def Obligations.HostOperationsExpandToTheirRequests : Prop :=
  ∀ late : Nat,
    (∀ a v,
      HostOp.expand late (.rd8 a) = [.bus ⟨false, 0b00#2, a, 0#32⟩]
        ∧ HostOp.expand late (.rd16 a) = [.bus ⟨false, 0b01#2, a, 0#32⟩]
        ∧ HostOp.expand late (.rd32 a) = [.bus ⟨false, 0b10#2, a, 0#32⟩]
        ∧ HostOp.expand late (.wr8 a v) = [.bus ⟨true, 0b00#2, a, v⟩]
        ∧ HostOp.expand late (.wr16 a v) = [.bus ⟨true, 0b01#2, a, v⟩]
        ∧ HostOp.expand late (.wr32 a v) = [.bus ⟨true, 0b10#2, a, v⟩])
    ∧ (∀ n, HostOp.expand late (.setw n) = [.bus ⟨true, 0b10#2, 0x00008#20, n⟩])
    ∧ (∀ n, HostOp.expand late (.setlen n) = [.bus ⟨true, 0b10#2, 0x0000C#20, n⟩])
    ∧ HostOp.expand late .nop = [.bus ⟨true, 0b10#2, 0x00010#20, 0x0#32⟩]
    ∧ HostOp.expand late .gsz = [.bus ⟨true, 0b10#2, 0x00010#20, 0x1#32⟩]
    ∧ HostOp.expand late .enc = [.bus ⟨true, 0b10#2, 0x00010#20, 0x2#32⟩]
    ∧ HostOp.expand late .dec = [.bus ⟨true, 0b10#2, 0x00010#20, 0x3#32⟩]
    ∧ HostOp.expand late .chk = [.bus ⟨true, 0b10#2, 0x00010#20, 0x4#32⟩]
    ∧ HostOp.expand late .clrdrop = [.bus ⟨true, 0b10#2, 0x00014#20, 0x100#32⟩]
    ∧ HostOp.expand late .wait = [.wait late]
    ∧ (∀ (i : Nat) (bs : List Byte), (HostOp.expand late (.load i bs)).length = bs.length
        ∧ ∀ t b, bs[t]? = some b → (HostOp.expand late (.load i bs))[t]?
            = some (Input.bus ⟨true, 0b00#2, BitVec.ofNat 20 (0x10000 + i + t), b.setWidth 32⟩))
    ∧ ∀ (i count : Nat) (b : Byte), (HostOp.expand late (.fill i count b)).length = count
        ∧ ∀ t, t < count → (HostOp.expand late (.fill i count b))[t]?
            = some (Input.bus ⟨true, 0b00#2, BitVec.ofNat 20 (0x80000 + i + t), b.setWidth 32⟩)

/-! ### Steps -/

/-- R64, R105 and the model's queue of events (log 1): when the oldest event is a request, the step is `exec` of the
instruction it decodes to, at the state with that event taken. -/
def Obligations.StepRunsTheDecodedRequest : Prop :=
  ∀ (s : State) (r : BusReq) (rest : List Input), s.inputs = .bus r :: rest →
    step s = exec (decode r) { s with inputs := rest }

/-- R103, R116, R120, R230 and log 1, log 14, log 19: what a step does when the oldest event is not a request, and when
there is none.
A turn of a `wait` loop reads STATUS, and if bit 0 of the result is 1 the loop goes on, with the engine moving once
`late` more turns have found it so. -/
def Obligations.StepGivesTheEngineItsTurnAndTakesReset : Prop :=
  ∀ (s : State) (rest : List Input),
    (s.inputs = .engine :: rest → step s = engineTurn { s with inputs := rest })
      ∧ (s.inputs = [] → step s = engineTurn s)
      ∧ (∀ late, s.inputs = .wait late :: rest → ∃ t, exec (.rd32 0x00014#20) { s with inputs := rest } = .next t
          ∧ step s = .next { t with
              inputs :=
                if t.resp.rdata.getLsbD 0 then
                  match late with
                  | 0     => .engine :: .wait 0 :: rest
                  | n + 1 => .wait n :: rest
                else rest })
      ∧ (s.inputs = .rst :: rest → step s = .next (resetBlock { s with inputs := rest }))
      ∧ (s.busy = false → engineTurn s = .next s)

/-- R64: each request is performed whole, in every state, and its response is returned: no request stops.
That an illegal request goes on too, with a bus error for its response, is the model's choice (log 4): R210 and U11
record it as a fault of the host program. -/
def Obligations.EveryRequestIsAnswered : Prop :=
  ∀ (i : Instr) (s : State), ∃ t, exec i s = .next t ∧ t.inputs = s.inputs ∧ t.inCap = s.inCap

/-! ### The host port -/

/-- R74: SIZE = 0b11, a narrow or misaligned register access, and any other misaligned access get ERR = 1 and
RDATA = 0 and change no state; every other request gets ERR = 0. -/
def Obligations.BusErrorsAreExactlyTheIllegalRequests : Prop :=
  (∀ (r : BusReq) (s : State), ¬ LegalRequest r → exec (decode r) s = .next (refusedByPort s))
    ∧ (∀ (r : BusReq) (s : State), LegalRequest r → ∃ t, exec (decode r) s = .next t ∧ t.resp.err = false)
    ∧ (∀ (a : Offset) (v : Word) (s : State),
        exec (.illegalBus3 a) s = .next (refusedByPort s) ∧ exec (.illegalBus7 a v) s = .next (refusedByPort s))

/-- R65: a legal access never straddles two regions, and never leaves the aperture. -/
def Obligations.LegalAccessStaysInItsRegion : Prop :=
  ∀ (w : Nat) (a : Offset) (t : Nat), AccessWidth w → LegalAccess w a → t < w →
    a.toNat + t < 2 ^ 20 ∧ region (a + BitVec.ofNat 20 t) = region a

/-- R21 to R39: what an aligned 4-byte read of each register returns; STATUS has a statement of its own. -/
def Obligations.RegisterReadsReturnTheirRegisters : Prop :=
  ∀ (s : State) (a : Offset), a.toNat < 0x1000 → a.toNat % 4 = 0 → a.toNat ≠ 0x14 →
    ∃ d, exec (.rd32 a) s = .next
      { s with
        draws := d
        resp :=
          { err := false
            rdata :=
              if a.toNat = 0x00 then 0x42520107#32
              else if a.toNat = 0x04 then BitVec.ofNat 32 s.inCap
              else if a.toNat = 0x08 then BitVec.ofNat 32 s.width.toNat
              else if a.toNat = 0x0C then s.len
              else if a.toNat = 0x18 then s.outLen
              else if a.toNat = 0x1C then s.res
              else if a.toNat = 0x20 then s.fullg
              else if a.toNat = 0x24 then s.resid
              else if a.toNat = 0x28 then s.errInfo
              else if a.toNat = 0x2C then s.errIndex
              else 0#32 } }

/-- R29, R32, R241: what STATUS reads as, bit by bit, and that a write to it, BUSY or not, clears WDROP if bit 8 is 1
and does nothing else. -/
def Obligations.StatusReadsItsFlagsAndWritesClearWdrop : Prop :=
  ∀ s : State,
    (∃ t, exec (.rd32 0x00014#20) s = .next t ∧ t.resp.err = false
      ∧ t.resp.rdata.getLsbD 0 = s.busy ∧ t.resp.rdata.getLsbD 1 = s.done
      ∧ t.resp.rdata.getLsbD 2 = (s.ecode != 0#4) ∧ t.resp.rdata.getLsbD 3 = false
      ∧ t.resp.rdata.extractLsb' 4 4 = s.ecode ∧ t.resp.rdata.getLsbD 8 = s.wdrop
      ∧ t.resp.rdata.extractLsb' 9 23 = 0#23)
    ∧ ∀ v : Word, ∃ x d, exec (.wr32 0x00014#20 v) s
        = .next (answered x d { s with wdrop := if v.getLsbD 8 then false else s.wdrop })

/-- R66, R76: a host read changes no state of the block, whatever its offset and width, BUSY or not. -/
def Obligations.ReadsChangeOnlyTheResponse : Prop :=
  ∀ (s : State) (w : Nat) (a : Offset), AccessWidth w →
    ∃ v e d, exec (readOf w a) s = .next { s with resp := ⟨v, e⟩, draws := d }

/-- R63, R66, R70, R72: a legal read of the IN window returns the written bytes within capacity, 0 beyond it, and 0
above its width, the lowest offset least significant.
A byte that is unwritten within capacity is a free value (R232) and is not spoken of. -/
def Obligations.InWindowReadsReturnTheirBytes : Prop :=
  ∀ (s : State) (w : Nat) (a : Offset), AccessWidth w → 0x10000 ≤ a.toNat → a.toNat < 0x20000 → a.toNat % w = 0 →
    ∃ t, exec (readOf w a) s = .next t ∧ t.resp.err = false
      ∧ (∀ k, k < w → a.toNat - 0x10000 + k < s.inCap →
          ∀ b, Memory.read? s.inBuf (a.toNat - 0x10000 + k) = some b → t.resp.rdata.extractLsb' (8 * k) 8 = b)
      ∧ (∀ k, k < w → s.inCap ≤ a.toNat - 0x10000 + k → t.resp.rdata.extractLsb' (8 * k) 8 = 0#8)
      ∧ t.resp.rdata.toNat < 2 ^ (8 * w)

/-- R63, R66, R70, R72, R80: the same for the OUT window while BUSY = 0; while BUSY = 1 the bytes within capacity are
free values, the others still read 0, and OUT is unchanged. -/
def Obligations.OutWindowReadsReturnTheirBytes : Prop :=
  ∀ (s : State) (w : Nat) (a : Offset), AccessWidth w → 0x80000 ≤ a.toNat → a.toNat % w = 0 →
    ∃ t, exec (readOf w a) s = .next t ∧ t.resp.err = false ∧ t.outBuf = s.outBuf
      ∧ (s.busy = false → ∀ k, k < w → a.toNat - 0x80000 + k < 8 * s.inCap →
          ∀ b, Memory.read? s.outBuf (a.toNat - 0x80000 + k) = some b → t.resp.rdata.extractLsb' (8 * k) 8 = b)
      ∧ (∀ k, k < w → 8 * s.inCap ≤ a.toNat - 0x80000 + k → t.resp.rdata.extractLsb' (8 * k) 8 = 0#8)
      ∧ t.resp.rdata.toNat < 2 ^ (8 * w)

/-- R39, R73: unmapped offsets and reserved register offsets read 0 and ignore writes, BUSY or not, when the access is
legal. -/
def Obligations.UnmappedAndReservedOffsetsReadZeroAndIgnoreWrites : Prop :=
  ∀ (s : State) (w : Nat) (a : Offset) (v : Word), AccessWidth w → LegalAccess w a →
    (0x30 ≤ a.toNat ∧ a.toNat < 0x10000) ∨ (0x20000 ≤ a.toNat ∧ a.toNat < 0x80000) →
    (∃ d, exec (readOf w a) s = .next { s with resp := ⟨0#32, false⟩, draws := d })
      ∧ ∃ x d, exec (writeOf w a v) s = .next (answered x d s)

/-- R22 to R25, R33 to R38: while BUSY = 0 a write to CTRL keeps bits 7:0 and a write to LEN keeps all 32, and nothing
else changes; a write to a read-only register is ignored, BUSY or not. -/
def Obligations.RegisterWritesReachOnlyTheirRegister : Prop :=
  ∀ (s : State) (v : Word),
    (s.busy = false → ∃ x d, exec (.wr32 0x00008#20 v) s
        = .next (answered x d { s with width := v.extractLsb' 0 8 }))
      ∧ (s.busy = false → ∃ x d, exec (.wr32 0x0000C#20 v) s = .next (answered x d { s with len := v }))
      ∧ ∀ a : Offset, a.toNat % 4 = 0 → a.toNat < 0x8 ∨ (0x18 ≤ a.toNat ∧ a.toNat < 0x30) →
          ∃ x d, exec (.wr32 a v) s = .next (answered x d s)

/-- R236: while BUSY = 1 a legal write to CTRL, LEN or CMD, or to a byte of IN or OUT, changes nothing but WDROP; every
other legal write has its normal effect, which is none except the W1C of STATUS.
The premise on IN_CAP is R9, and the invariant of StepKeepsTheInvariant. -/
def Obligations.WritesWhileBusyAreDropped : Prop :=
  ∀ (s : State) (w : Nat) (a : Offset) (v : Word), AccessWidth w → LegalAccess w a → s.inCap ≤ 65536 → s.busy = true →
    (Droppable s w a → ∃ x d, exec (writeOf w a v) s = .next (answered x d { s with wdrop := true }))
      ∧ (¬ Droppable s w a → a.toNat ≠ 0x14 → ∃ x d, exec (writeOf w a v) s = .next (answered x d s))
      ∧ (a.toNat = 0x14 → ∃ x d, exec (writeOf w a v) s
          = .next (answered x d { s with wdrop := if v.getLsbD 8 then false else s.wdrop }))

/-- R67, R70, R72: while BUSY = 0 a legal write of `w` bytes to a window stores byte `k` of the data at the `k`-th
offset where it is within capacity, and changes nothing else: every other byte of both buffers reads as before. -/
def Obligations.WindowWritesStoreTheirBytes : Prop :=
  ∀ (s : State) (w : Nat) (a : Offset) (v : Word), AccessWidth w → a.toNat % w = 0 → s.busy = false →
    (0x10000 ≤ a.toNat ∧ a.toNat < 0x20000 →
      ∃ m x d, exec (writeOf w a v) s = .next (answered x d { s with inBuf := m }) ∧ ∀ i, Memory.read? m i =
        if 0x10000 + i < a.toNat ∨ a.toNat + w ≤ 0x10000 + i ∨ s.inCap ≤ i then Memory.read? s.inBuf i
        else some (v.extractLsb' (8 * (0x10000 + i - a.toNat)) 8))
      ∧ (0x80000 ≤ a.toNat →
        ∃ m x d, exec (writeOf w a v) s = .next (answered x d { s with outBuf := m }) ∧ ∀ i, Memory.read? m i =
          if 0x80000 + i < a.toNat ∨ a.toNat + w ≤ 0x80000 + i ∨ 8 * s.inCap ≤ i then Memory.read? s.outBuf i
          else some (v.extractLsb' (8 * (0x80000 + i - a.toNat)) 8))

/-- R71, R79(a): while BUSY = 0, a read of the bytes just written, all within capacity, returns the data written. -/
def Obligations.ReadAfterWriteReturnsTheData : Prop :=
  ∀ (s : State) (w : Nat) (a : Offset) (v : Word), AccessWidth w → a.toNat % w = 0 → s.busy = false →
    (0x10000 ≤ a.toNat ∧ a.toNat < 0x20000 ∧ a.toNat + w ≤ 0x10000 + s.inCap)
      ∨ (0x80000 ≤ a.toNat ∧ a.toNat + w ≤ 0x80000 + 8 * s.inCap) →
    ∃ t u, exec (writeOf w a v) s = .next t ∧ exec (readOf w a) t = .next u
      ∧ u.resp.err = false ∧ u.resp.rdata.toNat = v.toNat % 2 ^ (8 * w)

/-- R76: writing the same value twice, anywhere but at CMD, leaves every register and every buffer byte as writing it
once does. -/
def Obligations.RepeatedWriteIsOneWrite : Prop :=
  ∀ (s : State) (w : Nat) (a : Offset) (v : Word), AccessWidth w → a ≠ 0x00010#20 →
    ∃ t u, exec (writeOf w a v) s = .next t ∧ exec (writeOf w a v) t = .next u
      ∧ u = { t with resp := u.resp, draws := u.draws, inBuf := u.inBuf, outBuf := u.outBuf }
      ∧ ∀ i, Memory.read? u.inBuf i = Memory.read? t.inBuf i ∧ Memory.read? u.outBuf i = Memory.read? t.outBuf i

/-! ### Commands -/

/-- R104, R111: a 4-byte write at CMD is the command of its word, BUSY or not. -/
def Obligations.CommandWriteIsItsCommand : Prop :=
  ∀ (v : Word) (s : State), exec (.wr32 0x00010#20 v) s = exec (decodeCmd v) s

/-- R114: a command written while BUSY = 1 is dropped, whatever its OP: only WDROP changes. -/
def Obligations.CommandsWhileBusyAreDropped : Prop :=
  ∀ (i : Instr) (op : BitVec 4) (s : State), opOf i = some op → s.busy = true →
    ∃ x d, exec i s = .next (answered x d { s with wdrop := true })

/-- R113: NOP changes no state while BUSY = 0, and is dropped while BUSY = 1. -/
def Obligations.NopChangesNothing : Prop :=
  ∀ s : State,
    (s.busy = false → ∃ x d, exec .nop s = .next (answered x d s))
      ∧ (s.busy = true → ∃ x d, exec .nop s = .next (answered x d { s with wdrop := true }))

/-- R112: accept, for each of the fifteen commands with OP ≠ 0 and BUSY = 0.
What the datapath registers and the sub-phase hold at an accept is the model's choice (log 9) and is not spoken of. -/
def Obligations.AcceptTakesTheSnapshotAndClearsTheResults : Prop :=
  ∀ (i : Instr) (op : BitVec 4) (s : State), opOf i = some op → op ≠ 0 → s.busy = false →
    ∃ x d sh pk ph, exec i s = .next (answered x d
      { s with
        snap := { op := op, w := s.width, elen := s.len }
        busy := true, done := false, ecode := 0
        outLen := 0, res := 0, fullg := 0, resid := 0, errInfo := 0, errIndex := 0
        shifter := sh, packer := pk, subPhase := ph })

/-- R237: after an accept, and after any requests that follow it before the completion, a read of STATUS shows BUSY = 1
and DONE = 0; after the completion, and after any requests that follow it and accept no command, it shows BUSY = 0 and
DONE = 1. -/
def Obligations.BusyIsVisibleAtOnce : Prop :=
  ∀ (i : Instr) (op : BitVec 4) (s : State), opOf i = some op → op ≠ 0 → s.busy = false →
    ∃ t, exec i s = .next t ∧ ∀ before : List BusReq, ∃ u, performs before t u
      ∧ (∃ u', exec (.rd32 0x00014#20) u = .next u'
          ∧ u'.resp.rdata.getLsbD 0 = true ∧ u'.resp.rdata.getLsbD 1 = false)
      ∧ ∀ v, engineTurn u = .next v →
          ∀ after : List BusReq, (∀ r ∈ after, opOf (decode r) = none ∨ opOf (decode r) = some 0) →
          ∃ w w', performs after v w ∧ exec (.rd32 0x00014#20) w = .next w'
            ∧ w'.resp.rdata.getLsbD 0 = false ∧ w'.resp.rdata.getLsbD 1 = true

/-- R119: a reserved command is accepted and completes with BadCommand, whatever CTRL.WIDTH, LEN and IN hold. -/
def Obligations.ReservedCommandCompletesWithBadCommand : Prop :=
  ∀ (i : Instr) (op : BitVec 4) (s : State), opOf i = some op → 5 ≤ op.toNat → s.busy = false →
    ∃ t u, exec i s = .next t ∧ engineTurn t = .next u ∧ Failed s u 5 op.toNat 0 0

/-- R133, R202: GSZ, ENC, DEC and CHK at a width outside 1 to 7 complete with InvalidWidth, whatever LEN and IN
hold. -/
def Obligations.IllegalWidthCompletesWithInvalidWidth : Prop :=
  ∀ (i : Instr) (s : State), i = .gsz ∨ i = .enc ∨ i = .dec ∨ i = .chk → s.busy = false → ¬ LegalWidth s.width →
    ∃ t u, exec i s = .next t ∧ engineTurn t = .next u ∧ Failed s u 1 0 0 0

/-- R132, R134: GSZ completes with the group constants in RES at a legal width and with InvalidWidth at any other,
whatever LEN and IN hold, and writes no OUT byte. -/
def Obligations.GszCompletesWithTheGroupConstants : Prop :=
  ∀ s : State, s.busy = false →
    ∃ t u, exec .gsz s = .next t ∧ engineTurn t = .next u ∧ u.outBuf = s.outBuf
      ∧ (LegalWidth s.width → Completed s u 0 (resTable s.width.toNat) 0 0)
      ∧ (¬ LegalWidth s.width → Failed s u 1 0 0 0)

/-- R139, R206: ENC, DEC and CHK with LEN > IN_CAP at a legal width complete with BadLength, whatever IN holds. -/
def Obligations.TooLongInputCompletesWithBadLength : Prop :=
  ∀ (i : Instr) (s : State), i = .enc ∨ i = .dec ∨ i = .chk → s.busy = false → LegalWidth s.width →
    s.inCap < s.len.toNat →
    ∃ t u, exec i s = .next t ∧ engineTurn t = .next u ∧ Failed s u 4 0 0 0

/-- R135, R150 to R153: ENC of written input at a legal width completes without error; it writes symbol `i` of R151 at
OUT[i] for every `i` below the symbol count and no other byte. -/
def Obligations.EncWritesTheSymbolsOfItsInput : Prop :=
  ∀ (s : State) (bs : List Byte), s.busy = false → LegalWidth s.width → s.len.toNat ≤ s.inCap → s.inCap ≤ 65536 →
    InHolds s bs →
    ∃ t u, exec .enc s = .next t ∧ engineTurn t = .next u
      ∧ Completed s u (encCount s.width.toNat bs.length) (resTable s.width.toNat)
          (bs.length / ogs s.width.toNat) (encResid s.width.toNat bs.length)
      ∧ (∀ i, Memory.read? u.outBuf i =
          if i < encCount s.width.toNat bs.length then some (BitVec.ofNat 8 (symbol bs s.width.toNat i))
          else Memory.read? s.outBuf i)
      ∧ ∀ i, symbol bs s.width.toNat i < 2 ^ s.width.toNat

/-- R136, R170, R173 to R175, R178: DEC of written, valid symbols with a zero overhang at a legal width completes
without error, for every symbol count; it writes byte `i` of R173 at OUT[i] for every `i` below the byte count and no
other byte. -/
def Obligations.DecWritesTheBytesOfItsInput : Prop :=
  ∀ (s : State) (syms : List Byte), s.busy = false → LegalWidth s.width → s.len.toNat ≤ s.inCap → s.inCap ≤ 65536 →
    InHolds s syms → ValidSymbols s.width.toNat syms → ovhValue syms s.width.toNat = 0 →
    ∃ t u, exec .dec s = .next t ∧ engineTurn t = .next u
      ∧ Completed s u (decCount s.width.toNat syms.length) (resTable s.width.toNat)
          (syms.length / sgs s.width.toNat) (decResid s.width.toNat syms.length)
      ∧ ∀ i, Memory.read? u.outBuf i =
          if i < decCount s.width.toNat syms.length then some (BitVec.ofNat 8 (octet syms s.width.toNat i))
          else Memory.read? s.outBuf i

/-- R171: from the same idle state, unless DEC would read an unwritten byte, CHK and DEC complete with the same
registers, and CHK writes no OUT byte. -/
def Obligations.ChkIsDecWithoutOutput : Prop :=
  ∀ s : State, s.busy = false →
    ¬ LegalWidth s.width ∨ s.inCap < s.len.toNat ∨ (∃ syms, InHolds s syms) →
    ∃ td ud tc uc, exec .dec s = .next td ∧ engineTurn td = .next ud
      ∧ exec .chk s = .next tc ∧ engineTurn tc = .next uc
      ∧ uc = { ud with outBuf := s.outBuf, snap := uc.snap, packer := uc.packer, subPhase := uc.subPhase }

/-- R172, R204: the lowest symbol byte that is not below `2^n` ends DEC and CHK with InvalidSymbol, its value and its
index. -/
def Obligations.FirstInvalidSymbolIsReported : Prop :=
  ∀ (i : Instr) (s : State) (syms : List Byte) (q : Nat) (b : Byte), i = .dec ∨ i = .chk → s.busy = false →
    LegalWidth s.width → s.len.toNat ≤ s.inCap → InHolds s syms →
    syms[q]? = some b → 2 ^ s.width.toNat ≤ b.toNat → ValidSymbols s.width.toNat (syms.take q) →
    ∃ t u, exec i s = .next t ∧ engineTurn t = .next u ∧ Failed s u 2 b.toNat 0 q

/-- R179, R205: valid symbols with a nonzero overhang end DEC and CHK with NonCanonical, the overhang value and its bit
count, which are in their stated ranges. -/
def Obligations.NonzeroOverhangIsReported : Prop :=
  ∀ (i : Instr) (s : State) (syms : List Byte), i = .dec ∨ i = .chk → s.busy = false →
    LegalWidth s.width → s.len.toNat ≤ s.inCap → InHolds s syms → ValidSymbols s.width.toNat syms →
    ovhValue syms s.width.toNat ≠ 0 →
    (∃ t u, exec i s = .next t ∧ engineTurn t = .next u
      ∧ Failed s u 3 (ovhValue syms s.width.toNat) (ovhCount s.width.toNat syms.length) 0)
    ∧ ovhValue syms s.width.toNat < 2 ^ ovhCount s.width.toNat syms.length
    ∧ 1 ≤ ovhCount s.width.toNat syms.length ∧ ovhCount s.width.toNat syms.length ≤ 7

/-- R239, R232: ENC, DEC or CHK over an input byte that has not been written since reset is accepted, and its completion
is a fault.
That the fault names the lowest such byte, and that it comes even where an invalid symbol lies below it, is what the
model deduces (log 7). -/
def Obligations.UnwrittenInputIsAFaultOfTheProgram : Prop :=
  ∀ (i : Instr) (s : State) (q : Nat), i = .enc ∨ i = .dec ∨ i = .chk → s.busy = false → LegalWidth s.width →
    s.len.toNat ≤ s.inCap → q < s.len.toNat → Memory.read? s.inBuf q = none →
    (∀ j, j < q → (Memory.read? s.inBuf j).isSome = true) →
    ∃ t, exec i s = .next t ∧ engineTurn t = .fault (.engineReadUnwritten q)

/-- R154, R176: with LEN = 0 ENC, DEC and CHK complete without error at a legal width and with InvalidWidth at any
other, and write no OUT byte, whatever IN holds. -/
def Obligations.EmptyInputGivesEmptyOutput : Prop :=
  ∀ (i : Instr) (s : State), i = .enc ∨ i = .dec ∨ i = .chk → s.busy = false → s.len = 0 →
    ∃ t u, exec i s = .next t ∧ engineTurn t = .next u ∧ u.outBuf = s.outBuf
      ∧ (LegalWidth s.width → Completed s u 0 (resTable s.width.toNat) 0 0)
      ∧ (¬ LegalWidth s.width → Failed s u 1 0 0 0)

/-- R208, R213: a command reports the first error that applies, in the order BadCommand, InvalidWidth, BadLength,
InvalidSymbol, NonCanonical.
Only the checks that read IN ask what it holds. -/
def Obligations.ErrorsFollowTheirPriority : Prop :=
  ∀ (i : Instr) (op : BitVec 4) (s : State), opOf i = some op → op ≠ 0 → s.busy = false →
    (5 ≤ op.toNat → CompletesWith i s fun u => u.ecode = 5)
      ∧ (op.toNat < 5 → ¬ LegalWidth s.width → CompletesWith i s fun u => u.ecode = 1)
      ∧ (op = 1 → LegalWidth s.width → CompletesWith i s fun u => u.ecode = 0)
      ∧ (2 ≤ op.toNat → op.toNat ≤ 4 → LegalWidth s.width → s.inCap < s.len.toNat →
          CompletesWith i s fun u => u.ecode = 4)
      ∧ ∀ bs, InHolds s bs → LegalWidth s.width → s.len.toNat ≤ s.inCap →
          (op = 2 → CompletesWith i s fun u => u.ecode = 0)
            ∧ (op = 3 ∨ op = 4 → CompletesWith i s fun u =>
                (¬ ValidSymbols s.width.toNat bs → u.ecode = 2)
                  ∧ (∀ q b, bs[q]? = some b → 2 ^ s.width.toNat ≤ b.toNat → ValidSymbols s.width.toNat (bs.take q) →
                      u.errIndex = BitVec.ofNat 32 q)
                  ∧ (ValidSymbols s.width.toNat bs → ovhValue bs s.width.toNat ≠ 0 → u.ecode = 3)
                  ∧ (ValidSymbols s.width.toNat bs → ovhValue bs s.width.toNat = 0 → u.ecode = 0))

/-- R78, R118, R209: a completion changes neither IN_CAP, CTRL, LEN, WDROP, IN nor the snapshot; with an error it writes
no OUT byte and clears the results, and without one it writes OUT only below OUT_LEN, and only for ENC and DEC.
That the snapshot is kept is the model's choice (log 8): it has no meaning once the engine is IDLE (R231). -/
def Obligations.CompletionTouchesOnlyItsOutput : Prop :=
  ∀ s u : State, Inv s → s.busy = true → engineTurn s = .next u →
    Kept s u ∧ u.snap = s.snap ∧ u.resp = s.resp ∧ u.busy = false ∧ u.done = true
      ∧ (u.ecode ≠ 0 → u.outBuf = s.outBuf ∧ u.outLen = 0 ∧ u.res = 0 ∧ u.fullg = 0 ∧ u.resid = 0)
      ∧ (s.snap.op ≠ 2 → s.snap.op ≠ 3 → u.outBuf = s.outBuf)
      ∧ ∀ i, u.outLen.toNat ≤ i → Memory.read? u.outBuf i = Memory.read? s.outBuf i

/-- R120: an accepted command whose input is written completes as soon as the engine moves, and no host request before
that disables it: each leaves BUSY, the snapshot and IN as they are. -/
def Obligations.AcceptedCommandsComplete : Prop :=
  ∀ s : State, Inv s → s.busy = true →
    ((∀ i, i < s.len.toNat → (Memory.read? s.inBuf i).isSome = true) →
      ∃ u, engineTurn s = .next u ∧ u.busy = false ∧ u.done = true)
    ∧ ∀ r : BusReq, ∃ t, exec (decode r) s = .next t
        ∧ t.busy = true ∧ t.snap = s.snap ∧ t.inBuf = s.inBuf ∧ t.inCap = s.inCap

/-- R78, R115: the result of a command depends on nothing but the snapshot, IN[0..ELEN-1] and IN_CAP: not on other IN
bytes, OUT, earlier results, or the datapath registers. -/
def Obligations.CommandResultIsAFunctionOfSnapshotAndInput : Prop :=
  ∀ s s' u : State, s.busy = true → s'.busy = true → s'.inCap = s.inCap → s'.snap = s.snap →
    (∀ i, i < s.snap.elen.toNat → Memory.read? s'.inBuf i = Memory.read? s.inBuf i) →
    engineTurn s = .next u →
    ∃ u', engineTurn s' = .next u'
      ∧ u'.ecode = u.ecode ∧ u'.outLen = u.outLen ∧ u'.res = u.res ∧ u'.fullg = u.fullg ∧ u'.resid = u.resid
      ∧ u'.errInfo = u.errInfo ∧ u'.errIndex = u.errIndex
      ∧ ∃ out : List Byte, u.outBuf = Memory.writeFrom s.outBuf 0 out ∧ u'.outBuf = Memory.writeFrom s'.outBuf 0 out

/-- R20, R50: the datapath registers and the sub-phase reach nothing else: two states that differ only in them step to
states that differ only in them, and stop alike. -/
def Obligations.DatapathRegistersAreNotObservable : Prop :=
  ∀ s s' : State, SameButDatapath s s' →
    (∀ t, step s = .next t → ∃ t', step s' = .next t' ∧ SameButDatapath t t')
      ∧ (∀ f, step s = .fault f → step s' = .fault f)
      ∧ (∀ r, step s = .refused r → step s' = .refused r)

/-! ### Whole-machine rules -/

/-- R74, R120, R210, R239: a host program whose every request is legal, `wait` loops among them, on a block whose IN
bytes are all written and that is not reset, runs safely for ever: no step stops and no response is a bus error. -/
def Obligations.LegalProgramsOverWrittenInputRunSafely : Prop :=
  ∀ (s : State) (steps : Nat), Inv s → s.resp.err = false →
    (∀ i, i < s.inCap → (Memory.read? s.inBuf i).isSome = true) →
    (∀ e ∈ s.inputs, e = .engine ∨ (∃ late, e = .wait late) ∨ ∃ r, e = .bus r ∧ LegalRequest r) →
    SafeRun steps s

/-- From R27 and R233: BUSY rises only at an accept and falls only at a completion or at RST.
That an accept sets it, a completion clears it and RST clears it is AcceptTakesTheSnapshotAndClearsTheResults,
CompletionTouchesOnlyItsOutput and ResetAbortsTheRunningCommand. -/
def Obligations.BusyChangesOnlyAtAcceptCompletionAndReset : Prop :=
  ∀ s t : State, step s = .next t →
    (s.busy = false → t.busy = true →
      ∃ r rest op, s.inputs = .bus r :: rest ∧ opOf (decode r) = some op ∧ op ≠ 0)
    ∧ (s.busy = true → t.busy = false →
      (s.inputs = [] ∧ engineTurn s = .next t)
        ∨ (∃ rest, s.inputs = .engine :: rest ∧ engineTurn { s with inputs := rest } = .next t)
        ∨ ∃ rest, s.inputs = .rst :: rest)

/-- R31: WDROP is set by exactly the dropped writes, the legal writes of R236 while BUSY = 1, and cleared only by a write
to STATUS with bit 8 = 1 or by RST.
The premise on IN_CAP is R9, and the invariant of StepKeepsTheInvariant. -/
def Obligations.WdropChangesOnlyAtDropsStatusWritesAndReset : Prop :=
  ∀ s t : State, s.inCap ≤ 65536 → step s = .next t →
    (s.wdrop = false → t.wdrop = true →
      s.busy = true ∧ ∃ r rest, s.inputs = .bus r :: rest ∧ r.we = true ∧ LegalRequest r
        ∧ Droppable s (2 ^ r.size.toNat) r.addr)
    ∧ (∀ r rest, s.busy = true → s.inputs = .bus r :: rest → r.we = true → LegalRequest r →
        Droppable s (2 ^ r.size.toNat) r.addr → t.wdrop = true)
    ∧ (s.wdrop = true → t.wdrop = false →
      (∃ v rest, s.inputs = .bus ⟨true, 0b10#2, 0x00014#20, v⟩ :: rest ∧ v.getLsbD 8 = true)
        ∨ ∃ rest, s.inputs = .rst :: rest)

/-- R242: a write to LEN issued during BUSY is dropped if the completion comes after it and takes effect if it comes
before, and every result of the command is the same. -/
def Obligations.RaceOfWriteAndCompletionAdmitsBothOrders : Prop :=
  ∀ (s : State) (v : Word) (rest : List Input), Inv s → s.busy = true →
    (∀ i, i < s.len.toNat → (Memory.read? s.inBuf i).isSome = true) →
    ∃ a₁ a₂ b₁ b₂,
      step { s with inputs := .bus ⟨true, 0b10#2, 0x0000C#20, v⟩ :: .engine :: rest } = .next a₁ ∧ step a₁ = .next a₂
      ∧ step { s with inputs := .engine :: .bus ⟨true, 0b10#2, 0x0000C#20, v⟩ :: rest } = .next b₁
      ∧ step b₁ = .next b₂
      ∧ a₂.len = s.len ∧ a₂.wdrop = true ∧ b₂.len = v ∧ b₂.wdrop = s.wdrop
      ∧ a₂.busy = false ∧ b₂.busy = false ∧ a₂.done = true ∧ b₂.done = true
      ∧ a₂.outBuf = b₂.outBuf ∧ a₂.outLen = b₂.outLen ∧ a₂.ecode = b₂.ecode ∧ a₂.res = b₂.res
      ∧ a₂.fullg = b₂.fullg ∧ a₂.resid = b₂.resid ∧ a₂.errInfo = b₂.errInfo ∧ a₂.errIndex = b₂.errIndex

/-! ### Reset and the invariant -/

/-- The invariant holds after reset, for every capacity R9 allows. -/
def Obligations.ResetMeetsTheInvariant : Prop :=
  Inv State.reset ∧ ∀ cap, 1 ≤ cap → cap ≤ 65536 → Inv (State.resetWith cap)

/-- R9, R28, R30, R33, R36, R37, R42, R118, R140, R238: every step keeps the invariant: the buffers' canonical form and
bounds, the known error codes, the cleared results during BUSY, the snapshot equal to CTRL and LEN, and the reserved
bits at 0. -/
def Obligations.StepKeepsTheInvariant : Prop :=
  ∀ s t : State, Inv s → step s = .next t → Inv t

/-- R231, R232: after reset ID and CAP read their constants, every other register offset reads 0, and every IN and OUT
byte is unwritten, for every capacity R9 allows. -/
def Obligations.RegistersReadTheirResetValues : Prop :=
  ∀ cap : Nat, 1 ≤ cap → cap ≤ 65536 →
    (∀ a : Offset, a.toNat < 0x1000 → a.toNat % 4 = 0 →
      ∃ t, exec (.rd32 a) (State.resetWith cap) = .next t ∧ t.resp.err = false
        ∧ t.resp.rdata = if a.toNat = 0 then 0x42520107#32
            else if a.toNat = 4 then BitVec.ofNat 32 cap else 0#32)
    ∧ ∀ i, Memory.read? (State.resetWith cap).inBuf i = none ∧ Memory.read? (State.resetWith cap).outBuf i = none

/-- R230, R233: RST in any state, and in particular during BUSY, gives every register its reset value and makes every
buffer byte unwritten; no completion occurs. -/
def Obligations.ResetAbortsTheRunningCommand : Prop :=
  ∀ (s : State) (rest : List Input), s.inputs = .rst :: rest →
    ∃ t, step s = .next t ∧ t.inCap = s.inCap ∧ t.width = 0 ∧ t.len = 0 ∧ t.busy = false ∧ t.done = false
      ∧ t.ecode = 0 ∧ t.wdrop = false ∧ t.outLen = 0 ∧ t.res = 0 ∧ t.fullg = 0 ∧ t.resid = 0 ∧ t.errInfo = 0
      ∧ t.errIndex = 0 ∧ ∀ i, Memory.read? t.inBuf i = none ∧ Memory.read? t.outBuf i = none

/-! ### The codec's functions and datapaths -/

/-- R130 to R132: the group constants of each legal width are those of the table, and the calculator's datapath, which
needs no divider, computes them. -/
def Obligations.GroupConstantsAreThoseOfTheTable : Prop :=
  ∀ n : BitVec 3, n ≠ 0 →
    calculator n = groupConsts n.toNat ∧ (groupConsts n.toNat).ogs = ogs n.toNat
      ∧ (groupConsts n.toNat).sgs = sgs n.toNat ∧ resWord (groupConsts n.toNat) = resTable n.toNat

/-- R137, R142: the length logic gives ceil(8L/n) symbols for L octets and floor(Mn/8) octets for M symbols, with
(Mn) mod 8 overhang bits. -/
def Obligations.LengthLogicGivesTheExactCounts : Prop :=
  ∀ n l m : Nat, 1 ≤ n → n ≤ 7 →
    (encLen n l).outLen = encCount n l ∧ (decLen n m).outLen = decCount n m ∧ overhangBits n m = ovhCount n m
      ∧ (encLen n l).totalGroups = (encLen n l).fullGroups + (if (encLen n l).rin = 0 then 0 else 1)

/-- R143: a symbol count is the length of some encoder output exactly when its overhang has fewer than n bits. -/
def Obligations.LengthValidCountsAreEncoderLengths : Prop :=
  ∀ n m : Nat, 1 ≤ n → n ≤ 7 →
    (lengthValid n m = true ↔ ∃ l, m = encCount n l)
      ∧ (lengthValid n m = true ↔ m = encCount n (decCount n m))

/-- R161: what the shifter emits, step by step, is the symbols of R151, for every input an implementation can hold. -/
def Obligations.ShifterEmitsTheSymbols : Prop :=
  ∀ (n : Nat) (bs : List Byte), 1 ≤ n → n ≤ 7 → bs.length ≤ 65536 →
    (shifterEncode n bs).2 = (List.range (encCount n bs.length)).map fun i => BitVec.ofNat 8 (symbol bs n i)

/-- R183, R184: on valid symbols the packer emits the bytes of R173 and ends with q = M, j = out_len, off = h and
cur = Overhang; on every input its two-phase verdict is that of R170. -/
def Obligations.PackerEmitsTheBytesAndTheOverhang : Prop :=
  ∀ (n : Nat) (syms : List Byte), 1 ≤ n → n ≤ 7 → syms.length ≤ 65536 →
    (ValidSymbols n syms →
      (packerRun n syms Packer.start).2
          = (List.range (decCount n syms.length)).map (fun i => BitVec.ofNat 8 (octet syms n i))
        ∧ (packerRun n syms Packer.start).1.q.toNat = syms.length
        ∧ (packerRun n syms Packer.start).1.j.toNat = decCount n syms.length
        ∧ (packerRun n syms Packer.start).1.off.toNat = ovhCount n syms.length
        ∧ (packerRun n syms Packer.start).1.cur.toNat = ovhValue syms n)
    ∧ ∀ write, (packerDecode n syms write).2.2 = decExec n syms write

/-- R164: ENC of B followed by DEC of the symbols it wrote, in any idle state of a block of the same capacity, large
enough for them, whose IN holds them, completes without error and returns B. -/
def Obligations.DecOfEncReturnsTheBytes : Prop :=
  ∀ (s : State) (bs : List Byte), s.busy = false → LegalWidth s.width → s.len.toNat ≤ s.inCap → s.inCap ≤ 65536 →
    encCount s.width.toNat bs.length ≤ s.inCap → InHolds s bs →
    ∃ t u, exec .enc s = .next t ∧ engineTurn t = .next u ∧ u.ecode = 0 ∧
      ∀ v : State, v.busy = false → v.width = s.width → v.inCap = s.inCap → v.len = u.outLen →
        (∀ i, i < u.outLen.toNat → Memory.read? v.inBuf i = Memory.read? u.outBuf i) →
        ∃ t' u', exec .dec v = .next t' ∧ engineTurn t' = .next u' ∧ u'.ecode = 0
          ∧ u'.outLen.toNat = bs.length ∧ ∀ i, i < bs.length → Memory.read? u'.outBuf i = bs[i]?

/-- R189: if valid symbols S have a zero overhang, encoding what they decode to gives the first ceil_div(8*out_len, n)
of them, and gives S exactly when S is length-valid. -/
def Obligations.EncOfDecReturnsLengthValidSymbols : Prop :=
  ∀ (n : Nat) (syms : List Byte), 1 ≤ n → n ≤ 7 → ValidSymbols n syms → ovhValue syms n = 0 →
    encodeBytes n (decodeSymbols n syms) = syms.take (encCount n (decCount n syms.length))
      ∧ (encodeBytes n (decodeSymbols n syms) = syms ↔ ovhCount n syms.length < n)

/-! ### Waiting -/

/-- R103, R120, R240: a `wait` loop ends after finitely many reads, whatever their number before the completion (log 19),
with a STATUS read that shows BUSY = 0.
After an accepted command over written input it leaves exactly what the completion leaves, with DONE = 1, and the host's
next operation comes only then; with no command running it ends at its first read and changes nothing.
From an accept until RST, BUSY or DONE is 1. -/
def Obligations.WaitEndsWhenTheCommandHasCompleted : Prop :=
  (∀ (s : State) (late : Nat) (rest : List Input), Inv s → s.busy = true →
    (∀ i, i < s.len.toNat → (Memory.read? s.inBuf i).isSome = true) → s.inputs = .wait late :: rest →
    ∃ u t, engineTurn s = .next u ∧ runSteps (late + 3) s = .next t
      ∧ t = { u with inputs := rest, resp := t.resp, draws := t.draws }
      ∧ t.busy = false ∧ t.done = true ∧ t.resp.err = false
      ∧ t.resp.rdata.getLsbD 0 = false ∧ t.resp.rdata.getLsbD 1 = true)
    ∧ (∀ (s : State) (late : Nat) (rest : List Input), s.busy = false → s.inputs = .wait late :: rest →
      ∃ t, step s = .next t ∧ t = { s with inputs := rest, resp := t.resp, draws := t.draws }
        ∧ t.resp.err = false ∧ t.resp.rdata.getLsbD 0 = false ∧ t.resp.rdata.getLsbD 1 = s.done)
    ∧ ∀ s t : State, step s = .next t →
      (∀ r rest op, s.inputs = .bus r :: rest → opOf (decode r) = some op → op ≠ 0 → t.busy = true)
        ∧ ((∀ rest, s.inputs ≠ .rst :: rest) → s.busy = true ∨ s.done = true → t.busy = true ∨ t.done = true)
end

