-- ==== Sys2Proof/Laws/Memory.lean ====
section
/-! SUPPORT. Laws/Memory.lean: reading after writing, and the canonical form kept by every buffer operation. -/

namespace Sys2Proof.Machine.Memory

/-! ### Read after write -/

/-- A write gives its byte at its index and leaves every other index alone. -/
theorem read?_write (m : Memory) (i j : Nat) (b : Byte) :
    read? (write m i b) j = if i = j then some b else read? m j := by
  induction m with
  | nil => simp [write, read?]
  | cons c m ih =>
    obtain ⟨a, v⟩ := c
    unfold write
    split
    · simp [read?]
    · split
      · rename_i h
        simp only [read?, h]
        split_ifs <;> rfl
      · simp only [read?, ih]
        split_ifs <;> first | rfl | omega

@[simp] theorem read?_write_same (m : Memory) (i : Nat) (b : Byte) : read? (write m i b) i = some b := by
  simp [read?_write]

theorem read?_write_ne (m : Memory) {i j : Nat} (b : Byte) (h : i ≠ j) :
    read? (write m i b) j = read? m j := by
  simp [read?_write, h]

/-- `writeFrom` stores byte `k` at index `i + k` and leaves every other index alone. -/
theorem read?_writeFrom (bs : List Byte) (m : Memory) (i j : Nat) :
    read? (writeFrom m i bs) j = if i ≤ j ∧ j < i + bs.length then bs[j - i]? else read? m j := by
  induction bs generalizing m i with
  | nil => simp [writeFrom]
  | cons b bs ih =>
    rw [writeFrom, ih, read?_write]
    by_cases hij : i = j
    · subst hij; simp
    · by_cases h : i + 1 ≤ j ∧ j < i + 1 + bs.length
      · have h1 : i ≤ j ∧ j < i + (b :: bs).length := by simp; omega
        have h2 : j - i = (j - (i + 1)) + 1 := by omega
        rw [if_pos h, if_pos h1, h2, List.getElem?_cons_succ]
      · have h1 : ¬ (i ≤ j ∧ j < i + (b :: bs).length) := by simp; omega
        rw [if_neg h, if_neg h1, if_neg hij]

/-- `writeBelow` does the same for the indices below the capacity, and ignores the others (R72). -/
theorem read?_writeBelow (cap : Nat) (bs : List Byte) (m : Memory) (i j : Nat) :
    read? (writeBelow cap m i bs) j =
      if i ≤ j ∧ j < i + bs.length ∧ j < cap then bs[j - i]? else read? m j := by
  induction bs generalizing m i with
  | nil => simp [writeBelow]; omega
  | cons b bs ih =>
    rw [writeBelow, ih]
    by_cases hij : i = j
    · subst hij
      by_cases hc : i < cap
      · simp [hc]
      · simp [hc]
    · have hm : read? (if i < cap then write m i b else m) j = read? m j := by
        split <;> simp [read?_write, hij]
      by_cases h : i + 1 ≤ j ∧ j < i + 1 + bs.length ∧ j < cap
      · have h1 : i ≤ j ∧ j < i + (b :: bs).length ∧ j < cap := by simp; omega
        have h2 : j - i = (j - (i + 1)) + 1 := by omega
        rw [if_pos h, if_pos h1, h2, List.getElem?_cons_succ]
      · have h1 : ¬ (i ≤ j ∧ j < i + (b :: bs).length ∧ j < cap) := by simp; omega
        rw [if_neg h, if_neg h1, hm]

/-! ### The canonical form -/

theorem sortedFrom_mono {lo lo' : Nat} {m : Memory} (h : lo' ≤ lo) (hs : sortedFrom lo m = true) :
    sortedFrom lo' m = true := by
  cases m with
  | nil => rfl
  | cons c m =>
    simp only [sortedFrom, Bool.and_eq_true, decide_eq_true_eq] at hs ⊢
    exact ⟨by omega, hs.2⟩

theorem sortedFrom_write {lo i : Nat} {m : Memory} (b : Byte) (hi : lo ≤ i) (hs : sortedFrom lo m = true) :
    sortedFrom lo (write m i b) = true := by
  induction m generalizing lo with
  | nil => simp [write, sortedFrom, hi]
  | cons c m ih =>
    obtain ⟨a, v⟩ := c
    simp only [sortedFrom, Bool.and_eq_true, decide_eq_true_eq] at hs
    unfold write
    split
    · simp [sortedFrom, hi, hs.2]; omega
    · split
      · subst_vars; simp [sortedFrom, hs]
      · simp only [sortedFrom, Bool.and_eq_true, decide_eq_true_eq]
        exact ⟨hs.1, ih (by omega) hs.2⟩

theorem wf_write {m : Memory} (i : Nat) (b : Byte) (h : wf m = true) : wf (write m i b) = true :=
  sortedFrom_write b (Nat.zero_le i) h

theorem wf_writeFrom (bs : List Byte) {m : Memory} (i : Nat) (h : wf m = true) :
    wf (writeFrom m i bs) = true := by
  induction bs generalizing m i with
  | nil => exact h
  | cons b bs ih => exact ih (i + 1) (wf_write i b h)

theorem wf_writeBelow (cap : Nat) (bs : List Byte) {m : Memory} (i : Nat) (h : wf m = true) :
    wf (writeBelow cap m i bs) = true := by
  induction bs generalizing m i with
  | nil => exact h
  | cons b bs ih =>
    refine ih (i + 1) ?_
    split
    · exact wf_write i b h
    · exact h

/-! ### The capacity -/

theorem below_write {cap : Nat} {m : Memory} {i : Nat} (b : Byte) (hi : i < cap) (h : below cap m = true) :
    below cap (write m i b) = true := by
  induction m with
  | nil => simp [write, below, hi]
  | cons c m ih =>
    obtain ⟨a, v⟩ := c
    simp only [below, List.all_cons, Bool.and_eq_true, decide_eq_true_eq] at h ih ⊢
    unfold write
    split
    · simp only [List.all_cons, Bool.and_eq_true, decide_eq_true_eq]
      exact ⟨hi, h⟩
    · split
      · simp only [List.all_cons, Bool.and_eq_true, decide_eq_true_eq]
        exact ⟨hi, h.2⟩
      · simp only [List.all_cons, Bool.and_eq_true, decide_eq_true_eq]
        exact ⟨h.1, ih h.2⟩

theorem below_writeFrom {cap : Nat} (bs : List Byte) {m : Memory} (i : Nat) (hi : i + bs.length ≤ cap)
    (h : below cap m = true) : below cap (writeFrom m i bs) = true := by
  induction bs generalizing m i with
  | nil => exact h
  | cons b bs ih =>
    simp only [List.length_cons] at hi
    exact ih (i + 1) (by omega) (below_write b (by omega) h)

theorem below_writeBelow {cap : Nat} (bs : List Byte) {m : Memory} (i : Nat) (h : below cap m = true) :
    below cap (writeBelow cap m i bs) = true := by
  induction bs generalizing m i with
  | nil => exact h
  | cons b bs ih =>
    refine ih (i + 1) ?_
    split
    · exact below_write b ‹_› h
    · exact h

/-- A byte of a buffer is read only where the buffer exists. -/
theorem read?_of_below {cap i : Nat} {m : Memory} {b : Byte} (h : below cap m = true) (hr : read? m i = some b) :
    i < cap := by
  induction m with
  | nil => simp [read?] at hr
  | cons c m ih =>
    obtain ⟨a, v⟩ := c
    simp only [below, List.all_cons, Bool.and_eq_true, decide_eq_true_eq] at h ih
    simp only [read?] at hr
    split at hr
    · subst_vars; exact h.1
    · exact ih h.2 hr

/-! ### The elements a command reads -/

@[simp] theorem length_elements (m : Memory) (count : Nat) : (elements m count).length = count := by
  simp [elements]

theorem getElem?_elements (m : Memory) (count i : Nat) :
    (elements m count)[i]? = if i < count then some ((read? m i).getD 0) else none := by
  by_cases h : i < count <;> simp [elements, h]

theorem firstUnwritten_eq_none {m : Memory} {count : Nat} :
    firstUnwritten m count = none ↔ ∀ i, i < count → (read? m i).isSome = true := by
  simp [firstUnwritten, List.find?_eq_none, Option.isSome_iff_ne_none]

/-- Where `bs` lists the first bytes of a buffer, all of them are written and the elements are `bs`. -/
theorem elements_eq {m : Memory} {bs : List Byte} (h : ∀ i, i < bs.length → read? m i = bs[i]?) :
    firstUnwritten m bs.length = none ∧ elements m bs.length = bs := by
  constructor
  · rw [firstUnwritten_eq_none]
    intro i hi
    simp [h i hi, hi]
  · apply List.ext_getElem?
    intro i
    rw [getElem?_elements]
    by_cases hi : i < bs.length
    · simp [hi, h i hi]
    · simp [hi]

/-- The lowest unwritten byte below `count` is the one the engine reports. -/
theorem firstUnwritten_eq_some {m : Memory} {count q : Nat} (hq : q < count) (hn : read? m q = none)
    (hlow : ∀ i, i < q → (read? m i).isSome = true) : firstUnwritten m count = some q := by
  unfold firstUnwritten
  rw [List.find?_range_eq_some]
  refine ⟨by simp [hn], by simpa using hq, fun j hj => ?_⟩
  have := hlow j hj
  simpa [Option.isSome_iff_ne_none] using this

end Sys2Proof.Machine.Memory
end

