-- ==== Sys2Proof/Laws/State.lean ====
section
/-! SUPPORT. Laws/State.lean: what each named update of the state does to each field. -/

namespace Sys2Proof.Machine

variable (s : State)

/-! ### respond -/

@[simp] theorem respond_inCap (rdata : Word) : (respond rdata s).inCap = s.inCap := rfl
@[simp] theorem respond_width (rdata : Word) : (respond rdata s).width = s.width := rfl
@[simp] theorem respond_len (rdata : Word) : (respond rdata s).len = s.len := rfl
@[simp] theorem respond_busy (rdata : Word) : (respond rdata s).busy = s.busy := rfl
@[simp] theorem respond_done (rdata : Word) : (respond rdata s).done = s.done := rfl
@[simp] theorem respond_ecode (rdata : Word) : (respond rdata s).ecode = s.ecode := rfl
@[simp] theorem respond_wdrop (rdata : Word) : (respond rdata s).wdrop = s.wdrop := rfl
@[simp] theorem respond_outLen (rdata : Word) : (respond rdata s).outLen = s.outLen := rfl
@[simp] theorem respond_res (rdata : Word) : (respond rdata s).res = s.res := rfl
@[simp] theorem respond_fullg (rdata : Word) : (respond rdata s).fullg = s.fullg := rfl
@[simp] theorem respond_resid (rdata : Word) : (respond rdata s).resid = s.resid := rfl
@[simp] theorem respond_errInfo (rdata : Word) : (respond rdata s).errInfo = s.errInfo := rfl
@[simp] theorem respond_errIndex (rdata : Word) : (respond rdata s).errIndex = s.errIndex := rfl
@[simp] theorem respond_inBuf (rdata : Word) : (respond rdata s).inBuf = s.inBuf := rfl
@[simp] theorem respond_outBuf (rdata : Word) : (respond rdata s).outBuf = s.outBuf := rfl
@[simp] theorem respond_snap (rdata : Word) : (respond rdata s).snap = s.snap := rfl
@[simp] theorem respond_shifter (rdata : Word) : (respond rdata s).shifter = s.shifter := rfl
@[simp] theorem respond_packer (rdata : Word) : (respond rdata s).packer = s.packer := rfl
@[simp] theorem respond_subPhase (rdata : Word) : (respond rdata s).subPhase = s.subPhase := rfl
@[simp] theorem respond_resp (rdata : Word) : (respond rdata s).resp = ⟨rdata, false⟩ := rfl
@[simp] theorem respond_inputs (rdata : Word) : (respond rdata s).inputs = s.inputs := rfl
@[simp] theorem respond_draws (rdata : Word) : (respond rdata s).draws = s.draws := rfl

/-! ### acknowledge -/

@[simp] theorem acknowledge_inCap : (acknowledge s).inCap = s.inCap := rfl
@[simp] theorem acknowledge_width : (acknowledge s).width = s.width := rfl
@[simp] theorem acknowledge_len : (acknowledge s).len = s.len := rfl
@[simp] theorem acknowledge_busy : (acknowledge s).busy = s.busy := rfl
@[simp] theorem acknowledge_done : (acknowledge s).done = s.done := rfl
@[simp] theorem acknowledge_ecode : (acknowledge s).ecode = s.ecode := rfl
@[simp] theorem acknowledge_wdrop : (acknowledge s).wdrop = s.wdrop := rfl
@[simp] theorem acknowledge_outLen : (acknowledge s).outLen = s.outLen := rfl
@[simp] theorem acknowledge_res : (acknowledge s).res = s.res := rfl
@[simp] theorem acknowledge_fullg : (acknowledge s).fullg = s.fullg := rfl
@[simp] theorem acknowledge_resid : (acknowledge s).resid = s.resid := rfl
@[simp] theorem acknowledge_errInfo : (acknowledge s).errInfo = s.errInfo := rfl
@[simp] theorem acknowledge_errIndex : (acknowledge s).errIndex = s.errIndex := rfl
@[simp] theorem acknowledge_inBuf : (acknowledge s).inBuf = s.inBuf := rfl
@[simp] theorem acknowledge_outBuf : (acknowledge s).outBuf = s.outBuf := rfl
@[simp] theorem acknowledge_snap : (acknowledge s).snap = s.snap := rfl
@[simp] theorem acknowledge_shifter : (acknowledge s).shifter = s.shifter := rfl
@[simp] theorem acknowledge_packer : (acknowledge s).packer = s.packer := rfl
@[simp] theorem acknowledge_subPhase : (acknowledge s).subPhase = s.subPhase := rfl
@[simp] theorem acknowledge_resp : (acknowledge s).resp = ⟨Config.freeWord s.draws, false⟩ := rfl
@[simp] theorem acknowledge_inputs : (acknowledge s).inputs = s.inputs := rfl
@[simp] theorem acknowledge_draws : (acknowledge s).draws = s.draws + 1 := rfl

/-! ### busError -/

@[simp] theorem busError_inCap : (busError s).inCap = s.inCap := rfl
@[simp] theorem busError_width : (busError s).width = s.width := rfl
@[simp] theorem busError_len : (busError s).len = s.len := rfl
@[simp] theorem busError_busy : (busError s).busy = s.busy := rfl
@[simp] theorem busError_done : (busError s).done = s.done := rfl
@[simp] theorem busError_ecode : (busError s).ecode = s.ecode := rfl
@[simp] theorem busError_wdrop : (busError s).wdrop = s.wdrop := rfl
@[simp] theorem busError_outLen : (busError s).outLen = s.outLen := rfl
@[simp] theorem busError_res : (busError s).res = s.res := rfl
@[simp] theorem busError_fullg : (busError s).fullg = s.fullg := rfl
@[simp] theorem busError_resid : (busError s).resid = s.resid := rfl
@[simp] theorem busError_errInfo : (busError s).errInfo = s.errInfo := rfl
@[simp] theorem busError_errIndex : (busError s).errIndex = s.errIndex := rfl
@[simp] theorem busError_inBuf : (busError s).inBuf = s.inBuf := rfl
@[simp] theorem busError_outBuf : (busError s).outBuf = s.outBuf := rfl
@[simp] theorem busError_snap : (busError s).snap = s.snap := rfl
@[simp] theorem busError_shifter : (busError s).shifter = s.shifter := rfl
@[simp] theorem busError_packer : (busError s).packer = s.packer := rfl
@[simp] theorem busError_subPhase : (busError s).subPhase = s.subPhase := rfl
@[simp] theorem busError_resp : (busError s).resp = ⟨0, true⟩ := rfl
@[simp] theorem busError_inputs : (busError s).inputs = s.inputs := rfl
@[simp] theorem busError_draws : (busError s).draws = s.draws := rfl

/-! ### setDrop -/

@[simp] theorem setDrop_inCap : (setDrop s).inCap = s.inCap := rfl
@[simp] theorem setDrop_width : (setDrop s).width = s.width := rfl
@[simp] theorem setDrop_len : (setDrop s).len = s.len := rfl
@[simp] theorem setDrop_busy : (setDrop s).busy = s.busy := rfl
@[simp] theorem setDrop_done : (setDrop s).done = s.done := rfl
@[simp] theorem setDrop_ecode : (setDrop s).ecode = s.ecode := rfl
@[simp] theorem setDrop_wdrop : (setDrop s).wdrop = true := rfl
@[simp] theorem setDrop_outLen : (setDrop s).outLen = s.outLen := rfl
@[simp] theorem setDrop_res : (setDrop s).res = s.res := rfl
@[simp] theorem setDrop_fullg : (setDrop s).fullg = s.fullg := rfl
@[simp] theorem setDrop_resid : (setDrop s).resid = s.resid := rfl
@[simp] theorem setDrop_errInfo : (setDrop s).errInfo = s.errInfo := rfl
@[simp] theorem setDrop_errIndex : (setDrop s).errIndex = s.errIndex := rfl
@[simp] theorem setDrop_inBuf : (setDrop s).inBuf = s.inBuf := rfl
@[simp] theorem setDrop_outBuf : (setDrop s).outBuf = s.outBuf := rfl
@[simp] theorem setDrop_snap : (setDrop s).snap = s.snap := rfl
@[simp] theorem setDrop_shifter : (setDrop s).shifter = s.shifter := rfl
@[simp] theorem setDrop_packer : (setDrop s).packer = s.packer := rfl
@[simp] theorem setDrop_subPhase : (setDrop s).subPhase = s.subPhase := rfl
@[simp] theorem setDrop_resp : (setDrop s).resp = s.resp := rfl
@[simp] theorem setDrop_inputs : (setDrop s).inputs = s.inputs := rfl
@[simp] theorem setDrop_draws : (setDrop s).draws = s.draws := rfl

/-! ### writeStatus -/

@[simp] theorem writeStatus_inCap (v : Word) : (writeStatus v s).inCap = s.inCap := rfl
@[simp] theorem writeStatus_width (v : Word) : (writeStatus v s).width = s.width := rfl
@[simp] theorem writeStatus_len (v : Word) : (writeStatus v s).len = s.len := rfl
@[simp] theorem writeStatus_busy (v : Word) : (writeStatus v s).busy = s.busy := rfl
@[simp] theorem writeStatus_done (v : Word) : (writeStatus v s).done = s.done := rfl
@[simp] theorem writeStatus_ecode (v : Word) : (writeStatus v s).ecode = s.ecode := rfl
@[simp] theorem writeStatus_wdrop (v : Word) : (writeStatus v s).wdrop = (s.wdrop && !v.getLsbD 8) := rfl
@[simp] theorem writeStatus_outLen (v : Word) : (writeStatus v s).outLen = s.outLen := rfl
@[simp] theorem writeStatus_res (v : Word) : (writeStatus v s).res = s.res := rfl
@[simp] theorem writeStatus_fullg (v : Word) : (writeStatus v s).fullg = s.fullg := rfl
@[simp] theorem writeStatus_resid (v : Word) : (writeStatus v s).resid = s.resid := rfl
@[simp] theorem writeStatus_errInfo (v : Word) : (writeStatus v s).errInfo = s.errInfo := rfl
@[simp] theorem writeStatus_errIndex (v : Word) : (writeStatus v s).errIndex = s.errIndex := rfl
@[simp] theorem writeStatus_inBuf (v : Word) : (writeStatus v s).inBuf = s.inBuf := rfl
@[simp] theorem writeStatus_outBuf (v : Word) : (writeStatus v s).outBuf = s.outBuf := rfl
@[simp] theorem writeStatus_snap (v : Word) : (writeStatus v s).snap = s.snap := rfl
@[simp] theorem writeStatus_shifter (v : Word) : (writeStatus v s).shifter = s.shifter := rfl
@[simp] theorem writeStatus_packer (v : Word) : (writeStatus v s).packer = s.packer := rfl
@[simp] theorem writeStatus_subPhase (v : Word) : (writeStatus v s).subPhase = s.subPhase := rfl
@[simp] theorem writeStatus_resp (v : Word) : (writeStatus v s).resp = s.resp := rfl
@[simp] theorem writeStatus_inputs (v : Word) : (writeStatus v s).inputs = s.inputs := rfl
@[simp] theorem writeStatus_draws (v : Word) : (writeStatus v s).draws = s.draws := rfl

/-! ### acceptCommand -/

@[simp] theorem acceptCommand_inCap (op : BitVec 4) : (acceptCommand op s).inCap = s.inCap := rfl
@[simp] theorem acceptCommand_width (op : BitVec 4) : (acceptCommand op s).width = s.width := rfl
@[simp] theorem acceptCommand_len (op : BitVec 4) : (acceptCommand op s).len = s.len := rfl
@[simp] theorem acceptCommand_busy (op : BitVec 4) : (acceptCommand op s).busy = true := rfl
@[simp] theorem acceptCommand_done (op : BitVec 4) : (acceptCommand op s).done = false := rfl
@[simp] theorem acceptCommand_ecode (op : BitVec 4) : (acceptCommand op s).ecode = 0 := rfl
@[simp] theorem acceptCommand_wdrop (op : BitVec 4) : (acceptCommand op s).wdrop = s.wdrop := rfl
@[simp] theorem acceptCommand_outLen (op : BitVec 4) : (acceptCommand op s).outLen = 0 := rfl
@[simp] theorem acceptCommand_res (op : BitVec 4) : (acceptCommand op s).res = 0 := rfl
@[simp] theorem acceptCommand_fullg (op : BitVec 4) : (acceptCommand op s).fullg = 0 := rfl
@[simp] theorem acceptCommand_resid (op : BitVec 4) : (acceptCommand op s).resid = 0 := rfl
@[simp] theorem acceptCommand_errInfo (op : BitVec 4) : (acceptCommand op s).errInfo = 0 := rfl
@[simp] theorem acceptCommand_errIndex (op : BitVec 4) : (acceptCommand op s).errIndex = 0 := rfl
@[simp] theorem acceptCommand_inBuf (op : BitVec 4) : (acceptCommand op s).inBuf = s.inBuf := rfl
@[simp] theorem acceptCommand_outBuf (op : BitVec 4) : (acceptCommand op s).outBuf = s.outBuf := rfl
@[simp] theorem acceptCommand_snap (op : BitVec 4) : (acceptCommand op s).snap = ⟨op, s.width, s.len⟩ := rfl
@[simp] theorem acceptCommand_shifter (op : BitVec 4) : (acceptCommand op s).shifter = Shifter.start := rfl
@[simp] theorem acceptCommand_packer (op : BitVec 4) : (acceptCommand op s).packer = Packer.start := rfl
@[simp] theorem acceptCommand_subPhase (op : BitVec 4) : (acceptCommand op s).subPhase = .validate := rfl
@[simp] theorem acceptCommand_resp (op : BitVec 4) : (acceptCommand op s).resp = s.resp := rfl
@[simp] theorem acceptCommand_inputs (op : BitVec 4) : (acceptCommand op s).inputs = s.inputs := rfl
@[simp] theorem acceptCommand_draws (op : BitVec 4) : (acceptCommand op s).draws = s.draws := rfl

/-! ### completeOk -/

@[simp] theorem completeOk_inCap (out : List Byte) (outLen : Nat) (res : Word) (fullg : Nat) (resid : Word) : (completeOk out outLen res fullg resid s).inCap = s.inCap := rfl
@[simp] theorem completeOk_width (out : List Byte) (outLen : Nat) (res : Word) (fullg : Nat) (resid : Word) : (completeOk out outLen res fullg resid s).width = s.width := rfl
@[simp] theorem completeOk_len (out : List Byte) (outLen : Nat) (res : Word) (fullg : Nat) (resid : Word) : (completeOk out outLen res fullg resid s).len = s.len := rfl
@[simp] theorem completeOk_busy (out : List Byte) (outLen : Nat) (res : Word) (fullg : Nat) (resid : Word) : (completeOk out outLen res fullg resid s).busy = false := rfl
@[simp] theorem completeOk_done (out : List Byte) (outLen : Nat) (res : Word) (fullg : Nat) (resid : Word) : (completeOk out outLen res fullg resid s).done = true := rfl
@[simp] theorem completeOk_ecode (out : List Byte) (outLen : Nat) (res : Word) (fullg : Nat) (resid : Word) : (completeOk out outLen res fullg resid s).ecode = 0 := rfl
@[simp] theorem completeOk_wdrop (out : List Byte) (outLen : Nat) (res : Word) (fullg : Nat) (resid : Word) : (completeOk out outLen res fullg resid s).wdrop = s.wdrop := rfl
@[simp] theorem completeOk_outLen (out : List Byte) (outLen : Nat) (res : Word) (fullg : Nat) (resid : Word) : (completeOk out outLen res fullg resid s).outLen = BitVec.ofNat 32 outLen := rfl
@[simp] theorem completeOk_res (out : List Byte) (outLen : Nat) (res : Word) (fullg : Nat) (resid : Word) : (completeOk out outLen res fullg resid s).res = res := rfl
@[simp] theorem completeOk_fullg (out : List Byte) (outLen : Nat) (res : Word) (fullg : Nat) (resid : Word) : (completeOk out outLen res fullg resid s).fullg = BitVec.ofNat 32 fullg := rfl
@[simp] theorem completeOk_resid (out : List Byte) (outLen : Nat) (res : Word) (fullg : Nat) (resid : Word) : (completeOk out outLen res fullg resid s).resid = resid := rfl
@[simp] theorem completeOk_errInfo (out : List Byte) (outLen : Nat) (res : Word) (fullg : Nat) (resid : Word) : (completeOk out outLen res fullg resid s).errInfo = 0 := rfl
@[simp] theorem completeOk_errIndex (out : List Byte) (outLen : Nat) (res : Word) (fullg : Nat) (resid : Word) : (completeOk out outLen res fullg resid s).errIndex = 0 := rfl
@[simp] theorem completeOk_inBuf (out : List Byte) (outLen : Nat) (res : Word) (fullg : Nat) (resid : Word) : (completeOk out outLen res fullg resid s).inBuf = s.inBuf := rfl
@[simp] theorem completeOk_outBuf (out : List Byte) (outLen : Nat) (res : Word) (fullg : Nat) (resid : Word) : (completeOk out outLen res fullg resid s).outBuf = Memory.writeFrom s.outBuf 0 out := rfl
@[simp] theorem completeOk_snap (out : List Byte) (outLen : Nat) (res : Word) (fullg : Nat) (resid : Word) : (completeOk out outLen res fullg resid s).snap = s.snap := rfl
@[simp] theorem completeOk_shifter (out : List Byte) (outLen : Nat) (res : Word) (fullg : Nat) (resid : Word) : (completeOk out outLen res fullg resid s).shifter = s.shifter := rfl
@[simp] theorem completeOk_packer (out : List Byte) (outLen : Nat) (res : Word) (fullg : Nat) (resid : Word) : (completeOk out outLen res fullg resid s).packer = s.packer := rfl
@[simp] theorem completeOk_subPhase (out : List Byte) (outLen : Nat) (res : Word) (fullg : Nat) (resid : Word) : (completeOk out outLen res fullg resid s).subPhase = s.subPhase := rfl
@[simp] theorem completeOk_resp (out : List Byte) (outLen : Nat) (res : Word) (fullg : Nat) (resid : Word) : (completeOk out outLen res fullg resid s).resp = s.resp := rfl
@[simp] theorem completeOk_inputs (out : List Byte) (outLen : Nat) (res : Word) (fullg : Nat) (resid : Word) : (completeOk out outLen res fullg resid s).inputs = s.inputs := rfl
@[simp] theorem completeOk_draws (out : List Byte) (outLen : Nat) (res : Word) (fullg : Nat) (resid : Word) : (completeOk out outLen res fullg resid s).draws = s.draws := rfl

/-! ### completeErr -/

@[simp] theorem completeErr_inCap (code : BitVec 4) (value : BitVec 8) (ovhbits index : Nat) : (completeErr code value ovhbits index s).inCap = s.inCap := rfl
@[simp] theorem completeErr_width (code : BitVec 4) (value : BitVec 8) (ovhbits index : Nat) : (completeErr code value ovhbits index s).width = s.width := rfl
@[simp] theorem completeErr_len (code : BitVec 4) (value : BitVec 8) (ovhbits index : Nat) : (completeErr code value ovhbits index s).len = s.len := rfl
@[simp] theorem completeErr_busy (code : BitVec 4) (value : BitVec 8) (ovhbits index : Nat) : (completeErr code value ovhbits index s).busy = false := rfl
@[simp] theorem completeErr_done (code : BitVec 4) (value : BitVec 8) (ovhbits index : Nat) : (completeErr code value ovhbits index s).done = true := rfl
@[simp] theorem completeErr_ecode (code : BitVec 4) (value : BitVec 8) (ovhbits index : Nat) : (completeErr code value ovhbits index s).ecode = code := rfl
@[simp] theorem completeErr_wdrop (code : BitVec 4) (value : BitVec 8) (ovhbits index : Nat) : (completeErr code value ovhbits index s).wdrop = s.wdrop := rfl
@[simp] theorem completeErr_outLen (code : BitVec 4) (value : BitVec 8) (ovhbits index : Nat) : (completeErr code value ovhbits index s).outLen = 0 := rfl
@[simp] theorem completeErr_res (code : BitVec 4) (value : BitVec 8) (ovhbits index : Nat) : (completeErr code value ovhbits index s).res = 0 := rfl
@[simp] theorem completeErr_fullg (code : BitVec 4) (value : BitVec 8) (ovhbits index : Nat) : (completeErr code value ovhbits index s).fullg = 0 := rfl
@[simp] theorem completeErr_resid (code : BitVec 4) (value : BitVec 8) (ovhbits index : Nat) : (completeErr code value ovhbits index s).resid = 0 := rfl
@[simp] theorem completeErr_errInfo (code : BitVec 4) (value : BitVec 8) (ovhbits index : Nat) : (completeErr code value ovhbits index s).errInfo = packErrInfo ovhbits s.snap.w value := rfl
@[simp] theorem completeErr_errIndex (code : BitVec 4) (value : BitVec 8) (ovhbits index : Nat) : (completeErr code value ovhbits index s).errIndex = BitVec.ofNat 32 index := rfl
@[simp] theorem completeErr_inBuf (code : BitVec 4) (value : BitVec 8) (ovhbits index : Nat) : (completeErr code value ovhbits index s).inBuf = s.inBuf := rfl
@[simp] theorem completeErr_outBuf (code : BitVec 4) (value : BitVec 8) (ovhbits index : Nat) : (completeErr code value ovhbits index s).outBuf = s.outBuf := rfl
@[simp] theorem completeErr_snap (code : BitVec 4) (value : BitVec 8) (ovhbits index : Nat) : (completeErr code value ovhbits index s).snap = s.snap := rfl
@[simp] theorem completeErr_shifter (code : BitVec 4) (value : BitVec 8) (ovhbits index : Nat) : (completeErr code value ovhbits index s).shifter = s.shifter := rfl
@[simp] theorem completeErr_packer (code : BitVec 4) (value : BitVec 8) (ovhbits index : Nat) : (completeErr code value ovhbits index s).packer = s.packer := rfl
@[simp] theorem completeErr_subPhase (code : BitVec 4) (value : BitVec 8) (ovhbits index : Nat) : (completeErr code value ovhbits index s).subPhase = s.subPhase := rfl
@[simp] theorem completeErr_resp (code : BitVec 4) (value : BitVec 8) (ovhbits index : Nat) : (completeErr code value ovhbits index s).resp = s.resp := rfl
@[simp] theorem completeErr_inputs (code : BitVec 4) (value : BitVec 8) (ovhbits index : Nat) : (completeErr code value ovhbits index s).inputs = s.inputs := rfl
@[simp] theorem completeErr_draws (code : BitVec 4) (value : BitVec 8) (ovhbits index : Nat) : (completeErr code value ovhbits index s).draws = s.draws := rfl

/-! ### resetBlock -/

@[simp] theorem resetBlock_inCap : (resetBlock s).inCap = s.inCap := rfl
@[simp] theorem resetBlock_width : (resetBlock s).width = 0 := rfl
@[simp] theorem resetBlock_len : (resetBlock s).len = 0 := rfl
@[simp] theorem resetBlock_busy : (resetBlock s).busy = false := rfl
@[simp] theorem resetBlock_done : (resetBlock s).done = false := rfl
@[simp] theorem resetBlock_ecode : (resetBlock s).ecode = 0 := rfl
@[simp] theorem resetBlock_wdrop : (resetBlock s).wdrop = false := rfl
@[simp] theorem resetBlock_outLen : (resetBlock s).outLen = 0 := rfl
@[simp] theorem resetBlock_res : (resetBlock s).res = 0 := rfl
@[simp] theorem resetBlock_fullg : (resetBlock s).fullg = 0 := rfl
@[simp] theorem resetBlock_resid : (resetBlock s).resid = 0 := rfl
@[simp] theorem resetBlock_errInfo : (resetBlock s).errInfo = 0 := rfl
@[simp] theorem resetBlock_errIndex : (resetBlock s).errIndex = 0 := rfl
@[simp] theorem resetBlock_inBuf : (resetBlock s).inBuf = [] := rfl
@[simp] theorem resetBlock_outBuf : (resetBlock s).outBuf = [] := rfl
@[simp] theorem resetBlock_snap : (resetBlock s).snap = ⟨0, 0, 0⟩ := rfl
@[simp] theorem resetBlock_shifter : (resetBlock s).shifter = Shifter.start := rfl
@[simp] theorem resetBlock_packer : (resetBlock s).packer = Packer.start := rfl
@[simp] theorem resetBlock_subPhase : (resetBlock s).subPhase = .validate := rfl
@[simp] theorem resetBlock_resp : (resetBlock s).resp = s.resp := rfl
@[simp] theorem resetBlock_inputs : (resetBlock s).inputs = s.inputs := rfl
@[simp] theorem resetBlock_draws : (resetBlock s).draws = s.draws := rfl

/-! ### runDatapath: only the hidden registers -/

/-- The datapath run changes the hidden registers alone. -/
theorem runDatapath_frame :
    ∃ sh pk ph, runDatapath s = { s with shifter := sh, packer := pk, subPhase := ph } := by
  unfold runDatapath
  dsimp only
  split_ifs
  · exact ⟨s.shifter, s.packer, s.subPhase, rfl⟩
  · exact ⟨_, s.packer, s.subPhase, rfl⟩
  · exact ⟨s.shifter, _, _, rfl⟩
  · exact ⟨s.shifter, s.packer, s.subPhase, rfl⟩

@[simp] theorem runDatapath_inCap : (runDatapath s).inCap = s.inCap := by
  obtain ⟨sh, pk, ph, h⟩ := runDatapath_frame s
  rw [h]
@[simp] theorem runDatapath_width : (runDatapath s).width = s.width := by
  obtain ⟨sh, pk, ph, h⟩ := runDatapath_frame s
  rw [h]
@[simp] theorem runDatapath_len : (runDatapath s).len = s.len := by
  obtain ⟨sh, pk, ph, h⟩ := runDatapath_frame s
  rw [h]
@[simp] theorem runDatapath_busy : (runDatapath s).busy = s.busy := by
  obtain ⟨sh, pk, ph, h⟩ := runDatapath_frame s
  rw [h]
@[simp] theorem runDatapath_done : (runDatapath s).done = s.done := by
  obtain ⟨sh, pk, ph, h⟩ := runDatapath_frame s
  rw [h]
@[simp] theorem runDatapath_ecode : (runDatapath s).ecode = s.ecode := by
  obtain ⟨sh, pk, ph, h⟩ := runDatapath_frame s
  rw [h]
@[simp] theorem runDatapath_wdrop : (runDatapath s).wdrop = s.wdrop := by
  obtain ⟨sh, pk, ph, h⟩ := runDatapath_frame s
  rw [h]
@[simp] theorem runDatapath_outLen : (runDatapath s).outLen = s.outLen := by
  obtain ⟨sh, pk, ph, h⟩ := runDatapath_frame s
  rw [h]
@[simp] theorem runDatapath_res : (runDatapath s).res = s.res := by
  obtain ⟨sh, pk, ph, h⟩ := runDatapath_frame s
  rw [h]
@[simp] theorem runDatapath_fullg : (runDatapath s).fullg = s.fullg := by
  obtain ⟨sh, pk, ph, h⟩ := runDatapath_frame s
  rw [h]
@[simp] theorem runDatapath_resid : (runDatapath s).resid = s.resid := by
  obtain ⟨sh, pk, ph, h⟩ := runDatapath_frame s
  rw [h]
@[simp] theorem runDatapath_errInfo : (runDatapath s).errInfo = s.errInfo := by
  obtain ⟨sh, pk, ph, h⟩ := runDatapath_frame s
  rw [h]
@[simp] theorem runDatapath_errIndex : (runDatapath s).errIndex = s.errIndex := by
  obtain ⟨sh, pk, ph, h⟩ := runDatapath_frame s
  rw [h]
@[simp] theorem runDatapath_inBuf : (runDatapath s).inBuf = s.inBuf := by
  obtain ⟨sh, pk, ph, h⟩ := runDatapath_frame s
  rw [h]
@[simp] theorem runDatapath_outBuf : (runDatapath s).outBuf = s.outBuf := by
  obtain ⟨sh, pk, ph, h⟩ := runDatapath_frame s
  rw [h]
@[simp] theorem runDatapath_snap : (runDatapath s).snap = s.snap := by
  obtain ⟨sh, pk, ph, h⟩ := runDatapath_frame s
  rw [h]
@[simp] theorem runDatapath_resp : (runDatapath s).resp = s.resp := by
  obtain ⟨sh, pk, ph, h⟩ := runDatapath_frame s
  rw [h]
@[simp] theorem runDatapath_inputs : (runDatapath s).inputs = s.inputs := by
  obtain ⟨sh, pk, ph, h⟩ := runDatapath_frame s
  rw [h]
@[simp] theorem runDatapath_draws : (runDatapath s).draws = s.draws := by
  obtain ⟨sh, pk, ph, h⟩ := runDatapath_frame s
  rw [h]

end Sys2Proof.Machine
end

