-- ==== Sys2Proof/Laws/Ops.lean ====
section
/-! SUPPORT. Laws/Ops.lean: what each shared operation over requests can answer, said once. -/

namespace Sys2Proof.Machine

/-- A read answers its data where it is legal and a bus error where it is not. -/
theorem busRead_cases {w : Nat} {a : Offset} {s t : State} (h : busRead w a s = .next t) :
    (legalAlign a w = true ∧ t = { respond (readData w a s) s with draws := s.draws + w })
      ∨ (legalAlign a w = false ∧ t = busError s) := by
  unfold busRead at h
  split at h <;> cases h <;> simp_all

/-- A write is dropped, performed, or a bus error. -/
theorem busWrite_cases {w : Nat} {a : Offset} {v : Word} {s t : State} (h : busWrite w a v s = .next t) :
    (legalAlign a w = true ∧ s.busy = true ∧ droppable s a w = true ∧ t = acknowledge (setDrop s))
      ∨ (legalAlign a w = true ∧ ¬ (s.busy = true ∧ droppable s a w = true)
          ∧ t = acknowledge (performWrite w a v s))
      ∨ (legalAlign a w = false ∧ t = busError s) := by
  unfold busWrite at h
  split at h
  · split at h <;> cases h <;> simp_all
  · cases h; simp_all

/-- A command word is dropped while BUSY = 1 and started while BUSY = 0. -/
theorem commandRequest_cases {op : BitVec 4} {s t : State} (h : commandRequest op s = .next t) :
    (s.busy = true ∧ t = acknowledge (setDrop s))
      ∨ (s.busy = false ∧ t = acknowledge (startCommand op s)) := by
  unfold commandRequest at h
  split at h <;> cases h <;> simp_all

/-- Whatever an instruction is, its request is a read, a bus error, a dropped write, a command, or a write
performed. -/
theorem exec_cases {i : Instr} {s t : State} (h : exec i s = .next t) :
    (∃ w a, legalAlign a w = true ∧ t = { respond (readData w a s) s with draws := s.draws + w })
      ∨ t = busError s
      ∨ (s.busy = true ∧ t = acknowledge (setDrop s))
      ∨ (s.busy = false ∧ ∃ op, t = acknowledge (startCommand op s))
      ∨ (∃ w a v, legalAlign a w = true ∧ ¬ (s.busy = true ∧ droppable s a w = true)
          ∧ t = acknowledge (performWrite w a v s)) := by
  have read : ∀ {w a}, busRead w a s = .next t → _ := fun h => busRead_cases h
  have write : ∀ {w a v}, busWrite w a v s = .next t → _ := fun h => busWrite_cases h
  have command : ∀ {op}, commandRequest op s = .next t → _ := fun h => commandRequest_cases h
  cases i
  case rd8 | rd16 | rd32 =>
    obtain ⟨hl, ht⟩ | ⟨-, ht⟩ := read h
    · exact .inl ⟨_, _, hl, ht⟩
    · exact .inr (.inl ht)
  case wr8 | wr16 | wr32 =>
    obtain ⟨-, hb, -, ht⟩ | ⟨hl, hd, ht⟩ | ⟨-, ht⟩ := write h
    · exact .inr (.inr (.inl ⟨hb, ht⟩))
    · exact .inr (.inr (.inr (.inr ⟨_, _, _, hl, hd, ht⟩)))
    · exact .inr (.inl ht)
  case illegalBus3 | illegalBus7 => cases h; exact .inr (.inl rfl)
  all_goals
    obtain ⟨hb, ht⟩ | ⟨hb, ht⟩ := command h
    · exact .inr (.inr (.inl ⟨hb, ht⟩))
    · exact .inr (.inr (.inr (.inl ⟨hb, _, ht⟩)))

/-- A legal write that is performed changes one register, a buffer, or starts a command. -/
theorem performWrite_cases (w : Nat) (a : Offset) (v : Word) (s : State) :
    performWrite w a v s = s
      ∨ (region a = .registers ∧ regAt a = .ctrl ∧ performWrite w a v s = { s with width := v.extractLsb' 0 8 })
      ∨ (region a = .registers ∧ regAt a = .len ∧ performWrite w a v s = { s with len := v })
      ∨ (region a = .registers ∧ regAt a = .cmd ∧ performWrite w a v s = startCommand (v.extractLsb' 0 4) s)
      ∨ (region a = .registers ∧ regAt a = .status ∧ performWrite w a v s = writeStatus v s)
      ∨ (region a = .inWindow ∧ performWrite w a v s =
          { s with inBuf := Memory.writeBelow s.inCap s.inBuf (inIndex a 0) (dataBytes w v) })
      ∨ (region a = .outWindow ∧ performWrite w a v s =
          { s with outBuf := Memory.writeBelow s.outCap s.outBuf (outIndex a 0) (dataBytes w v) }) := by
  unfold performWrite writeReg
  split
  · split <;> simp_all
  all_goals simp_all

/-- A command that starts is NOP, which changes nothing, or is accepted. -/
theorem startCommand_cases (op : BitVec 4) (s : State) :
    (op = 0 ∧ startCommand op s = s) ∨ (op ≠ 0 ∧ startCommand op s = acceptCommand op s) := by
  unfold startCommand
  split
  · exact .inl ⟨‹_›, rfl⟩
  · exact .inr ⟨‹_›, rfl⟩

/-- The engine's turn is a completion while BUSY = 1 and nothing while BUSY = 0. -/
theorem engineTurn_cases {s t : State} (h : engineTurn s = .next t) :
    (s.busy = false ∧ t = s) ∨ (s.busy = true ∧ completion s = .next t) := by
  unfold engineTurn at h
  split at h
  · exact .inr ⟨‹_›, h⟩
  · cases h; simp_all

/-- A completion that answers is without error (R117) or with one (R118), and follows `engineExec`. -/
theorem completion_cases {s t : State} (h : completion s = .next t) :
    (∃ out outLen res fullg resid, engineExec s.inCap s.snap s.inBuf = .ok out outLen res fullg resid
        ∧ t = completeOk out outLen (resWord res) fullg resid (runDatapath s))
      ∨ (∃ code value ovhbits index, engineExec s.inCap s.snap s.inBuf = .err code value ovhbits index
        ∧ t = completeErr code value ovhbits index (runDatapath s)) := by
  unfold completion at h
  split at h
  · rename_i hr
    cases h
    exact .inl ⟨_, _, _, _, _, hr, rfl⟩
  · rename_i hr
    cases h
    exact .inr ⟨_, _, _, _, hr, rfl⟩
  · cases h

/-- Bit 0 of STATUS is BUSY and bit 1 is DONE (R27, R28, R32). -/
theorem statusWord_busy (s : State) : (statusWord s).getLsbD 0 = s.busy := by
  simp only [statusWord, BitVec.getLsbD_ofNat, Nat.testBit_zero]
  cases s.busy <;> simp <;> omega

theorem statusWord_done (s : State) : (statusWord s).getLsbD 1 = s.done := by
  simp only [statusWord, BitVec.getLsbD_ofNat, Nat.testBit_succ, Nat.testBit_zero]
  cases s.busy <;> cases s.done <;> simp <;> omega

/-- A turn of the polling loop reads STATUS, and leaves the loop to run again exactly where BUSY = 1. -/
theorem waitTurn_next (late : Nat) (s : State) :
    waitTurn late s = .next { s with
      resp := ⟨statusWord s, false⟩
      draws := s.draws + 4
      inputs := if s.busy then waitAgain late ++ s.inputs else s.inputs } := by
  have hd : decode (readRequest 0b10 (regOffset .status)) = .rd32 0x00014 := by decide
  have hx : exec (.rd32 0x00014) s = .next { s with resp := ⟨statusWord s, false⟩, draws := s.draws + 4 } := rfl
  simp only [waitTurn, hd, hx, waitEnds, statusWord_busy]
  cases s.busy <;> rfl

/-- The engine's turn reads neither the response, the draws nor the events to come, and passes them on. -/
theorem engineTurn_port {s t : State} (h : engineTurn s = .next t) (resp : Response) (inputs : List Input)
    (draws : Nat) :
    engineTurn { s with resp := resp, inputs := inputs, draws := draws }
      = .next { t with resp := resp, inputs := inputs, draws := draws } := by
  have run : runDatapath { s with resp := resp, inputs := inputs, draws := draws }
      = { runDatapath s with resp := resp, inputs := inputs, draws := draws } := by
    unfold runDatapath
    dsimp only
    split_ifs <;> rfl
  obtain ⟨hb, rfl⟩ | ⟨hb, hc⟩ := engineTurn_cases h
  · exact if_neg (by simp [hb])
  · refine (if_pos hb).trans ?_
    unfold completion
    rw [run]
    obtain ⟨_, _, _, _, _, hr, rfl⟩ | ⟨_, _, _, _, hr, rfl⟩ := completion_cases hc <;>
      (dsimp only; rw [hr]; rfl)

/-- A step is one of five: the engine with no event to come, a request, the engine in its turn, a turn of the polling
loop, or RST. -/
theorem step_cases {s t : State} (h : step s = .next t) :
    (s.inputs = [] ∧ engineTurn s = .next t)
      ∨ (∃ r rest, s.inputs = .bus r :: rest ∧ exec (decode r) { s with inputs := rest } = .next t)
      ∨ (∃ rest, s.inputs = .engine :: rest ∧ engineTurn { s with inputs := rest } = .next t)
      ∨ (∃ late rest, s.inputs = .wait late :: rest ∧ waitTurn late { s with inputs := rest } = .next t)
      ∨ (∃ rest, s.inputs = .rst :: rest ∧ t = resetBlock { s with inputs := rest }) := by
  unfold step at h
  split at h
  · exact .inl ⟨‹_›, h⟩
  · exact .inr (.inl ⟨_, _, ‹_›, h⟩)
  · exact .inr (.inr (.inl ⟨_, ‹_›, h⟩))
  · exact .inr (.inr (.inr (.inl ⟨_, _, ‹_›, h⟩)))
  · cases h
    exact .inr (.inr (.inr (.inr ⟨_, ‹_›, rfl⟩)))

/-! ### What `engineExec` computes, by the first test that applies -/

variable {cap : Nat} {snap : Snap} {inBuf : Memory}

theorem engineExec_reserved (h : 5 ≤ snap.op.toNat) :
    engineExec cap snap inBuf = .err 5 (snap.op.setWidth 8) 0 0 := by
  have h0 : ¬ snap.op = 0#4 := by rintro h0; simp [h0] at h
  simp [engineExec, h0, h]

theorem engineExec_width (h0 : snap.op ≠ 0) (h5 : snap.op.toNat < 5) (hw : legalWidth snap.w = false) :
    engineExec cap snap inBuf = .err 1 0 0 0 := by
  have h0 : ¬ snap.op = 0#4 := h0
  simp [engineExec, h0, Nat.not_le.mpr h5, hw]

theorem engineExec_gsz (h : snap.op = 1) (hw : legalWidth snap.w = true) :
    engineExec cap snap inBuf = .ok [] 0 (groupConsts snap.w.toNat) 0 0 := by
  simp [engineExec, h, hw]

theorem engineExec_length (h : snap.op = 2 ∨ snap.op = 3 ∨ snap.op = 4) (hw : legalWidth snap.w = true)
    (hl : cap < snap.elen.toNat) : engineExec cap snap inBuf = .err 4 0 0 0 := by
  obtain h | h | h := h <;> simp [engineExec, h, hw, hl]

theorem engineExec_elements (h : snap.op = 2 ∨ snap.op = 3 ∨ snap.op = 4) (hw : legalWidth snap.w = true)
    (hl : snap.elen.toNat ≤ cap) :
    engineExec cap snap inBuf = execElements snap.op snap.w.toNat snap.elen.toNat inBuf := by
  obtain h | h | h := h <;> simp [engineExec, h, hw, Nat.not_lt.mpr hl]

/-- On elements that are all written, ENC, DEC and CHK compute `encExec` and `decExec`. -/
theorem execElements_written (op : BitVec 4) (n : Nat) {bs : List Byte}
    (hu : Memory.firstUnwritten inBuf bs.length = none) (he : Memory.elements inBuf bs.length = bs) :
    execElements op n bs.length inBuf
      = if op = 2 then encExec n bs else if op = 3 then decExec n bs true else decExec n bs false := by
  simp [execElements, hu, he]

/-- A lowest unwritten element stops ENC, DEC and CHK. -/
theorem execElements_unwritten (op : BitVec 4) (n : Nat) {elen q : Nat}
    (hu : Memory.firstUnwritten inBuf elen = some q) :
    execElements op n elen inBuf = .stopped (.engineReadUnwritten q) := by
  simp [execElements, hu]

end Sys2Proof.Machine
end

