-- ==== Sys2Proof/Laws/PerInstr.lean ====
section
/-! SUPPORT. Laws/PerInstr.lean: what holds of every instruction as syntax, one lemma for each constructor. -/

namespace Sys2Proof.Laws.EncodeMatchesTable

/-- The mask and the match of a command row of spec/opcode_table.json, on the word written to CMD. -/
def commandRow (op : Nat) (i : Instr) : Prop :=
  (encode i).code = 0b110 ∧ (encode i).addr = 0x00010#20 ∧ (encode i).wdata &&& 0x0000000F#32 = BitVec.ofNat 32 op

/-- The request of an instruction has the bits its row of spec/opcode_table.json fixes (R92, R98). -/
def Statement : Instr → Prop
  | .nop => commandRow 0x0 .nop
  | .gsz => commandRow 0x1 .gsz
  | .enc => commandRow 0x2 .enc
  | .dec => commandRow 0x3 .dec
  | .chk => commandRow 0x4 .chk
  | .reservedOp5 => commandRow 0x5 .reservedOp5
  | .reservedOp6 => commandRow 0x6 .reservedOp6
  | .reservedOp7 => commandRow 0x7 .reservedOp7
  | .reservedOp8 => commandRow 0x8 .reservedOp8
  | .reservedOp9 => commandRow 0x9 .reservedOp9
  | .reservedOpA => commandRow 0xA .reservedOpA
  | .reservedOpB => commandRow 0xB .reservedOpB
  | .reservedOpC => commandRow 0xC .reservedOpC
  | .reservedOpD => commandRow 0xD .reservedOpD
  | .reservedOpE => commandRow 0xE .reservedOpE
  | .reservedOpF => commandRow 0xF .reservedOpF
  | .rd8 a => (encode (.rd8 a)).code = 0b000 ∧ (encode (.rd8 a)).addr = a
  | .rd16 a => (encode (.rd16 a)).code = 0b001 ∧ (encode (.rd16 a)).addr = a
  | .rd32 a => (encode (.rd32 a)).code = 0b010 ∧ (encode (.rd32 a)).addr = a
  | .illegalBus3 a => (encode (.illegalBus3 a)).code = 0b011 ∧ (encode (.illegalBus3 a)).addr = a
  | .wr8 a v => (encode (.wr8 a v)).code = 0b100 ∧ (encode (.wr8 a v)).addr = a ∧ (encode (.wr8 a v)).wdata = v
  | .wr16 a v =>
    (encode (.wr16 a v)).code = 0b101 ∧ (encode (.wr16 a v)).addr = a ∧ (encode (.wr16 a v)).wdata = v
  | .wr32 a v =>
    (encode (.wr32 a v)).code = 0b110 ∧ (encode (.wr32 a v)).addr = a ∧ (encode (.wr32 a v)).wdata = v
  | .illegalBus7 a v =>
    (encode (.illegalBus7 a v)).code = 0b111 ∧ (encode (.illegalBus7 a v)).addr = a
      ∧ (encode (.illegalBus7 a v)).wdata = v

theorem nop : Statement .nop := by unfold Statement commandRow; decide
theorem gsz : Statement .gsz := by unfold Statement commandRow; decide
theorem enc : Statement .enc := by unfold Statement commandRow; decide
theorem dec : Statement .dec := by unfold Statement commandRow; decide
theorem chk : Statement .chk := by unfold Statement commandRow; decide
theorem reservedOp5 : Statement .reservedOp5 := by unfold Statement commandRow; decide
theorem reservedOp6 : Statement .reservedOp6 := by unfold Statement commandRow; decide
theorem reservedOp7 : Statement .reservedOp7 := by unfold Statement commandRow; decide
theorem reservedOp8 : Statement .reservedOp8 := by unfold Statement commandRow; decide
theorem reservedOp9 : Statement .reservedOp9 := by unfold Statement commandRow; decide
theorem reservedOpA : Statement .reservedOpA := by unfold Statement commandRow; decide
theorem reservedOpB : Statement .reservedOpB := by unfold Statement commandRow; decide
theorem reservedOpC : Statement .reservedOpC := by unfold Statement commandRow; decide
theorem reservedOpD : Statement .reservedOpD := by unfold Statement commandRow; decide
theorem reservedOpE : Statement .reservedOpE := by unfold Statement commandRow; decide
theorem reservedOpF : Statement .reservedOpF := by unfold Statement commandRow; decide
theorem rd8 (a : Offset) : Statement (.rd8 a) := ⟨rfl, rfl⟩
theorem rd16 (a : Offset) : Statement (.rd16 a) := ⟨rfl, rfl⟩
theorem rd32 (a : Offset) : Statement (.rd32 a) := ⟨rfl, rfl⟩
theorem illegalBus3 (a : Offset) : Statement (.illegalBus3 a) := ⟨rfl, rfl⟩
theorem wr8 (a : Offset) (v : Word) : Statement (.wr8 a v) := ⟨rfl, rfl, rfl⟩
theorem wr16 (a : Offset) (v : Word) : Statement (.wr16 a v) := ⟨rfl, rfl, rfl⟩
theorem wr32 (a : Offset) (v : Word) : Statement (.wr32 a v) := ⟨rfl, rfl, rfl⟩
theorem illegalBus7 (a : Offset) (v : Word) : Statement (.illegalBus7 a v) := ⟨rfl, rfl, rfl⟩

end Sys2Proof.Laws.EncodeMatchesTable
end

