-- ==== Sys2Proof/Laws/Streams.lean ====
section
/-! SUPPORT. Laws/Streams.lean: windows of bit streams as sums, and the group constants of each legal width. -/

namespace Sys2Proof.Machine

@[simp] theorem windowValue_zero (bit : Nat → Bool) (start : Nat) : windowValue bit start 0 = 0 := rfl

theorem windowValue_succ (bit : Nat → Bool) (start width : Nat) :
    windowValue bit start (width + 1) = 2 * windowValue bit start width + (bit (start + width)).toNat := rfl

/-- A window of `width` bits is below `2^width`. -/
theorem windowValue_lt (bit : Nat → Bool) (start width : Nat) : windowValue bit start width < 2 ^ width := by
  induction width with
  | zero => simp
  | succ width ih =>
    rw [windowValue_succ, Nat.pow_succ]
    have := Bool.toNat_lt (bit (start + width))
    omega

/-- A window is the sum of R151, R173 and R178: bit `j` weighs `2^(width-1-j)`. -/
theorem windowValue_eq_sum (bit : Nat → Bool) (start width : Nat) :
    windowValue bit start width
      = ∑ j ∈ Finset.range width, (bit (start + j)).toNat <<< (width - 1 - j) := by
  induction width with
  | zero => simp
  | succ width ih =>
    rw [windowValue_succ, ih, Finset.sum_range_succ, Finset.mul_sum]
    congr 1
    · refine Finset.sum_congr rfl fun j hj => ?_
      have hj : j < width := Finset.mem_range.mp hj
      have : width + 1 - 1 - j = (width - 1 - j) + 1 := by omega
      rw [this, Nat.shiftLeft_eq, Nat.shiftLeft_eq, Nat.pow_succ]
      ring
    · simp

/-- A window depends only on the bits it covers. -/
theorem windowValue_congr {bit bit' : Nat → Bool} {start start' width : Nat}
    (h : ∀ j, j < width → bit (start + j) = bit' (start' + j)) :
    windowValue bit start width = windowValue bit' start' width := by
  induction width with
  | zero => rfl
  | succ width ih =>
    rw [windowValue_succ, windowValue_succ, ih fun j hj => h j (by omega), h width (by omega)]

/-- Stream bit `k` of a byte sequence, as R14 writes it. -/
theorem byteBit_eq_getD (bs : List Byte) (k : Nat) :
    byteBit bs k = (bs.getD (k / 8) 0).getLsbD (7 - k % 8) := by
  unfold byteBit
  rw [List.getD_eq_getElem?_getD]
  cases bs[k / 8]? <;> simp

/-- Stream bit `k` of a symbol sequence, as R14 writes it. -/
theorem symbolBit_eq_getD (syms : List Byte) (n k : Nat) :
    symbolBit syms n k = (syms.getD (k / n) 0).getLsbD (n - 1 - k % n) := by
  unfold symbolBit
  rw [List.getD_eq_getElem?_getD]
  cases syms[k / n]? <;> simp

@[simp] theorem length_encodeBytes (n : Nat) (bs : List Byte) :
    (encodeBytes n bs).length = (encLen n bs.length).outLen := by
  simp [encodeBytes]

@[simp] theorem length_decodeSymbols (n : Nat) (syms : List Byte) :
    (decodeSymbols n syms).length = (decLen n syms.length).outLen := by
  simp [decodeSymbols]

theorem getElem?_encodeBytes (n : Nat) (bs : List Byte) (i : Nat) :
    (encodeBytes n bs)[i]? =
      if i < (encLen n bs.length).outLen then some (BitVec.ofNat 8 (symbolAt bs n i)) else none := by
  by_cases h : i < (encLen n bs.length).outLen <;> simp [encodeBytes, h]

theorem getElem?_decodeSymbols (n : Nat) (syms : List Byte) (i : Nat) :
    (decodeSymbols n syms)[i]? =
      if i < (decLen n syms.length).outLen then some (BitVec.ofNat 8 (decodedByte syms n i)) else none := by
  by_cases h : i < (decLen n syms.length).outLen <;> simp [decodeSymbols, h]

/-- The group bit count is a whole number of octets and of symbols (R130). -/
theorem groupConsts_bits (n : Nat) :
    (groupConsts n).ogs * 8 = (groupConsts n).lcm ∧ (groupConsts n).sgs * n = (groupConsts n).lcm :=
  ⟨Nat.div_mul_cancel (Nat.dvd_lcm_left 8 n), Nat.div_mul_cancel (Nat.dvd_lcm_right 8 n)⟩

/-- RESID holds RIN, ROUT and PARTIAL in their places, and its reserved bits read 0 (R36). -/
theorem packResid_fields (p : Bool) (rout rin : Nat) :
    ((packResid p rout rin).extractLsb' 0 8).toNat = rin % 256
      ∧ ((packResid p rout rin).extractLsb' 8 8).toNat = rout % 256
      ∧ ((packResid p rout rin).extractLsb' 16 1).toNat = p.toNat
      ∧ (packResid p rout rin).extractLsb' 17 15 = 0#15 := by
  have hp := p.toNat_lt
  simp only [← BitVec.toNat_inj, packResid, BitVec.extractLsb'_toNat, BitVec.toNat_ofNat, Nat.shiftRight_eq_div_pow]
  norm_num
  omega

/-- ERR_INFO holds VALUE, WIDTH and OVHBITS in their places, and its reserved bits read 0 (R37). -/
theorem packErrInfo_fields (ovhbits : Nat) (w value : BitVec 8) :
    (packErrInfo ovhbits w value).extractLsb' 0 8 = value
      ∧ (packErrInfo ovhbits w value).extractLsb' 8 8 = w
      ∧ ((packErrInfo ovhbits w value).extractLsb' 16 4).toNat = ovhbits % 16
      ∧ (packErrInfo ovhbits w value).extractLsb' 20 12 = 0#12 := by
  have hw := w.isLt
  have hv := value.isLt
  simp only [← BitVec.toNat_inj, packErrInfo, BitVec.extractLsb'_toNat, BitVec.toNat_ofNat, Nat.shiftRight_eq_div_pow]
  norm_num
  omega

end Sys2Proof.Machine
end

