-- ==== Sys2Proof/Tests/Slice0.lean ====
section
/-! SUPPORT. Tests/Slice0.lean: the model's own tests, from the vectors of spec/95_test_vectors.md, and a witness for the
hypotheses of each statement. -/

namespace Sys2Proof.Tests

open Sys2Proof.Machine Sys2Proof.Rules

/-! ### Helpers -/

/-- The next state of an outcome. -/
def next? : Host.Outcome State Fault Refusal → Option State
  | .next s => some s
  | .fault _ => none
  | .refused _ => none

/-- The fault of an outcome. -/
def fault? : Host.Outcome State Fault Refusal → Option Fault
  | .next _ => none
  | .fault f => some f
  | .refused _ => none

/-- An idle block of capacity 16 with CTRL.WIDTH, LEN and IN set for a command. -/
def idle (width : BitVec 8) (bs : List Byte) : State :=
  { State.reset with width := width, len := BitVec.ofNat 32 bs.length, inBuf := Memory.writeFrom [] 0 bs }

/-- The block of `idle` while it runs command `op`. -/
def running (op : BitVec 4) (width : BitVec 8) (bs : List Byte) : State :=
  { idle width bs with busy := true, snap := { op := op, w := width, elen := BitVec.ofNat 32 bs.length } }

/-- An idle block of capacity 16 with the LEN of P-1 and P-4 of the vectors, and nothing in IN. -/
def tooLong (width : BitVec 8) : State := { State.reset with width := width, len := 99999 }

/-- The block of section 8 of the vectors: capacity 18, IN[i] = i + 1. -/
def port : State :=
  { State.resetWith 18 with inBuf := Memory.writeFrom [] 0 ((List.range 18).map fun i => BitVec.ofNat 8 (i + 1)) }

/-- RDATA and ERR of an outcome's response. -/
def response (o : Host.Outcome State Fault Refusal) : Option (Word × Bool) :=
  (next? o).map fun s => (s.resp.rdata, s.resp.err)

/-- STATUS, OUT_LEN, RES, FULLG, RESID, ERR_INFO and ERR_INDEX after an outcome. -/
def results (o : Host.Outcome State Fault Refusal) : Option (List Word) :=
  (next? o).map fun s => [statusWord s, s.outLen, s.res, s.fullg, s.resid, s.errInfo, s.errIndex]

/-- The OUT buffer after an outcome. -/
def output (o : Host.Outcome State Fault Refusal) : Option Memory := (next? o).map (·.outBuf)

/-! ### WellFormed: each check refuses an ill-formed term -/

theorem test_wellFormed_refuses_wr32_at_cmd : Instr.wellFormed (.wr32 0x00010#20 0x2#32) = false := by decide
theorem test_wellFormed_accepts_wr32_at_len : Instr.wellFormed (.wr32 0x0000C#20 0x2#32) = true := by decide

/-! ### Decode: a word of every constructor, written out from R92 and R98 -/

theorem test_decode_commands :
    decodeCmd 0x00000000#32 = .nop ∧ decodeCmd 0x00000001#32 = .gsz ∧ decodeCmd 0x00000002#32 = .enc
      ∧ decodeCmd 0x00000003#32 = .dec ∧ decodeCmd 0x00000004#32 = .chk ∧ decodeCmd 0x00000010#32 = .nop := by
  decide
theorem test_decode_reserved_commands :
    decodeCmd 0x5#32 = .reservedOp5 ∧ decodeCmd 0x6#32 = .reservedOp6 ∧ decodeCmd 0x7#32 = .reservedOp7
      ∧ decodeCmd 0x8#32 = .reservedOp8 ∧ decodeCmd 0x9#32 = .reservedOp9 ∧ decodeCmd 0xA#32 = .reservedOpA
      ∧ decodeCmd 0xB#32 = .reservedOpB ∧ decodeCmd 0xC#32 = .reservedOpC ∧ decodeCmd 0xD#32 = .reservedOpD
      ∧ decodeCmd 0xE#32 = .reservedOpE ∧ decodeCmd 0xF#32 = .reservedOpF := by
  decide
theorem test_decode_bus_codes :
    decode ⟨false, 0b00#2, 0x80004#20, 0⟩ = .rd8 0x80004#20
      ∧ decode ⟨false, 0b01#2, 0x80000#20, 0⟩ = .rd16 0x80000#20
      ∧ decode ⟨false, 0b10#2, 0x00018#20, 0⟩ = .rd32 0x00018#20
      ∧ decode ⟨false, 0b11#2, 0x00000#20, 0⟩ = .illegalBus3 0x00000#20
      ∧ decode ⟨true, 0b00#2, 0x10001#20, 0x61⟩ = .wr8 0x10001#20 0x61
      ∧ decode ⟨true, 0b01#2, 0x10002#20, 0xBEEF⟩ = .wr16 0x10002#20 0xBEEF
      ∧ decode ⟨true, 0b10#2, 0x0000C#20, 0x3⟩ = .wr32 0x0000C#20 0x3
      ∧ decode ⟨true, 0b11#2, 0x00000#20, 0⟩ = .illegalBus7 0x00000#20 0 := by
  decide
theorem test_decodeTableWord :
    decodeTableWord 32 0x2 = some .enc ∧ decodeTableWord 32 0xF = some .reservedOpF
      ∧ decodeTableWord 8 0b001 = some (.rd16 0) ∧ decodeTableWord 8 0b111 = some (.illegalBus7 0 0)
      ∧ decodeTableWord 8 0xC = some .reservedOpC ∧ decodeTableWord 8 0x100 = none := by
  decide

/-! ### Steps -/

theorem test_step_runs_the_fetched_command :
    (next? (step (State.reset.withFetchWord 32 0x2))).map (fun s => (s.busy, s.snap, s.inputs))
      = some (true, ⟨2, 0, 0⟩, []) := by
  decide
theorem test_step_runs_the_fetched_read :
    response (step (State.reset.withFetchWord 8 0b010)) = some (0x42520107#32, false) := by decide
theorem test_step_without_events_completes :
    results (step (running 1 5 [])) = some [0x2, 0, 0x01280805, 0, 0, 0, 0] := by decide
theorem test_step_reset_aborts :
    (next? (step { running 2 6 [77] with inputs := [.rst, .engine] })).map
      (fun s => (s.busy, s.width, s.inBuf, s.inputs)) = some (false, 0, [], [.engine]) := by
  decide

/-- R103, `wait` with BUSY = 1: STATUS is read, and the loop goes on, in the end after the engine's turn. -/
theorem test_wait_polls_while_busy :
    (next? (step { running 1 6 [] with inputs := [.wait 1, .rst] })).map (fun s => (s.resp, s.inputs))
        = some (⟨0x1, false⟩, [.wait 0, .rst])
      ∧ (next? (step { running 1 6 [] with inputs := [.wait 0, .rst] })).map (fun s => (s.resp, s.inputs))
        = some (⟨0x1, false⟩, [.engine, .wait 0, .rst]) := by
  decide
/-- R103, `wait` with BUSY = 0: one read, and the host goes on. -/
theorem test_wait_ends_when_idle :
    (next? (step { idle 6 [] with done := true, inputs := [.wait 1, .rst] })).map (fun s => (s.resp, s.inputs))
      = some (⟨0x2, false⟩, [.rst]) := by
  decide
theorem test_programInputs_P2 :
    programInputs (fun _ => 0) [.setlen 3, .load 0 [19, 22], .dec, .wait]
      = [.bus ⟨true, 0b10, 0x0000C, 3⟩, .bus ⟨true, 0b00, 0x10000, 0x13⟩, .bus ⟨true, 0b00, 0x10001, 0x16⟩,
         .bus ⟨true, 0b10, 0x00010, 3⟩, .wait 0] := by
  decide

/-! ### The host port (section 8 of the vectors) -/

theorem test_B1_rd32_little_endian : response (exec (.rd32 0x10000) port) = some (0x04030201, false) := by decide
theorem test_B3_rd32_past_capacity : response (exec (.rd32 0x10010) port) = some (0x00001211, false) := by decide
theorem test_B4_rd16_beyond_capacity : response (exec (.rd16 0x10012) port) = some (0x0000, false) := by decide
theorem test_B5_wr16 :
    (next? (exec (.wr16 0x10002 0x0000BEEF) port)).map
      (fun s => (Memory.read? s.inBuf 1, Memory.read? s.inBuf 2, Memory.read? s.inBuf 3, Memory.read? s.inBuf 4))
      = some (some 2, some 0xEF, some 0xBE, some 5) := by
  decide
theorem test_B6_wr32_past_capacity :
    (next? (exec (.wr32 0x10010 0xCAFEF00D) port)).map (fun s => s.inBuf.drop 15)
      = some [(15, 16), (16, 0x0D), (17, 0xF0)] := by
  decide
theorem test_B7_rd16_misaligned : response (exec (.rd16 0x10001) port) = some (0, true) := by decide
theorem test_B9_rd8_register : response (exec (.rd8 0x00008) port) = some (0, true) := by decide
theorem test_B10_wr32_misaligned :
    exec (.wr32 0x0000A 0) port = .next { port with resp := ⟨0, true⟩ } := by rfl
theorem test_B11_illegal_read_size : response (exec (.illegalBus3 0x10000) port) = some (0, true) := by decide
theorem test_B11_illegal_write_size : response (exec (.illegalBus7 0x10000 1) port) = some (0, true) := by decide
theorem test_B16_cap : response (exec (.rd32 0x00004) port) = some (0x00000012, false) := by decide
theorem test_B17_wr8 :
    (next? (exec (.wr8 0x10001 0x161) port)).map (fun s => s.inBuf.take 3) = some [(0, 1), (1, 0x61), (2, 3)] := by
  decide
theorem test_B18_ctrl_keeps_bits_7_0 :
    (next? (exec (.wr32 0x00008 0xFFFFFF06) port)).map ctrlWord = some 0x00000006 := by decide
theorem test_rd8_out :
    response (exec (.rd8 0x80004) { port with outBuf := [(4, 0x1E)] }) = some (0x1E, false) := by decide
theorem test_P2_rd16_out :
    response (exec (.rd16 0x80000) { port with outBuf := [(0, 77), (1, 97)] }) = some (0x614D, false) := by decide
theorem test_wr8_out_last_byte :
    (next? (exec (.wr8 0x8008F 0xAA) port)).map (·.outBuf) = some [(143, 0xAA)] := by decide

/-! ### Hazards (section 9 of the vectors) -/

theorem test_H1_write_during_busy_is_dropped :
    (next? (exec (.wr8 0x10000 0) (running 2 6 [77, 97, 110]))).map (fun s => (s.wdrop, s.inBuf.head?))
      = some (true, some (0, 77)) := by
  decide
theorem test_H3_status_write_during_busy :
    (next? (exec (.wr32 0x00014 0x100) { running 2 6 [77] with wdrop := true })).map (·.wdrop) = some false := by decide
theorem test_H5_write_beyond_capacity_is_not_dropped :
    (next? (exec (.wr8 0x10010 1) (running 2 6 [77]))).map (fun s => (s.wdrop, s.inBuf)) = some (false, [(0, 77)]) := by
  decide
theorem test_H6_command_during_busy_is_dropped :
    (next? (exec .dec (running 2 6 [77]))).map (fun s => (s.wdrop, s.snap.op)) = some (true, 2) := by decide
theorem test_H11_unwritten_input :
    fault? (engineTurn { running 3 6 [0] with inBuf := [] }) = some (.engineReadUnwritten 0) := by decide
theorem test_H12_reset_width_is_illegal :
    results (engineTurn (running 2 0 [])) = some [0x16, 0, 0, 0, 0, 0, 0] := by decide

/-! ### Commands (sections 1 to 7 of the vectors) -/

theorem test_P8_nop_keeps_done :
    (next? (exec .nop { idle 6 [] with done := true, outLen := 4 })).map (fun s => (statusWord s, s.outLen))
      = some (0x2, 4) := by
  decide
theorem test_enc_accept :
    results (exec .enc { idle 6 [77] with done := true, outLen := 4, res := 1, fullg := 1, resid := 1 })
      = some [0x1, 0, 0, 0, 0, 0, 0] := by
  decide
theorem test_gsz_accept : (next? (exec .gsz (idle 7 [1]))).map (·.snap) = some ⟨1, 7, 1⟩ := by decide
theorem test_dec_accept : (next? (exec .dec (idle 7 [1]))).map (·.snap) = some ⟨3, 7, 1⟩ := by decide
theorem test_chk_accept : (next? (exec .chk (idle 7 [1]))).map (·.snap) = some ⟨4, 7, 1⟩ := by decide
theorem test_reserved_accept :
    [Instr.reservedOp5, .reservedOp6, .reservedOp7, .reservedOp8, .reservedOp9, .reservedOpA, .reservedOpB,
      .reservedOpC, .reservedOpD, .reservedOpE, .reservedOpF].map
        (fun i => (next? (exec i (idle 0 []))).map (fun s => s.snap.op))
      = [some 5, some 6, some 7, some 8, some 9, some 10, some 11, some 12, some 13, some 14, some 15] := by
  decide
theorem test_gsz_7 : results (engineTurn (running 1 7 [1, 2])) = some [0x2, 0, 0x01380807, 0, 0, 0, 0] := by
  decide
theorem test_gsz_255 : results (engineTurn (running 1 255 [])) = some [0x16, 0, 0, 0, 0, 0x0000FF00, 0] := by
  decide
theorem test_X1_enc_registers :
    results (engineTurn (running 2 6 [77, 97, 110])) = some [0x2, 4, 0x02180403, 1, 0, 0, 0] := by decide +kernel
theorem test_E18_enc_output :
    output (engineTurn { running 2 7 [0xDE, 0xAD, 0xBE, 0xEF] with outBuf := [(4, 1), (5, 0xAA)] })
      = some [(0, 111), (1, 43), (2, 55), (3, 110), (4, 120), (5, 0xAA)] := by decide +kernel
theorem test_E23_bad_length :
    results (engineTurn { running 2 6 [] with snap := ⟨2, 6, 17⟩ }) = some [0x46, 0, 0, 0, 0, 0x00000600, 0] := by
  decide
theorem test_X2d_dec_output : output (engineTurn (running 3 6 [19, 22, 4])) = some [(0, 77), (1, 97)] := by
  decide +kernel
theorem test_D9_dec_length_invalid :
    results (engineTurn (running 3 4 [3, 0, 0])) = some [0x2, 1, 0x04080201, 1, 0x00010001, 0, 0] := by
  decide +kernel
theorem test_F6_dec_non_canonical :
    results (engineTurn (running 3 2 [2, 3])) = some [0x36, 0, 0, 0, 0, 0x0004020B, 0] := by decide +kernel
theorem test_F14_dec_invalid_symbol_first :
    results (engineTurn (running 3 6 [1, 64])) = some [0x26, 0, 0, 0, 0, 0x00000640, 1] := by decide +kernel
theorem test_F2_chk_non_canonical :
    results (engineTurn (running 4 6 [19, 17])) = some [0x36, 0, 0, 0, 0, 0x00040601, 0] := by decide +kernel
theorem test_P5_chk_writes_no_output :
    output (engineTurn { running 4 4 [3, 0, 0] with outBuf := [(0, 0x55)] }) = some [(0, 0x55)] := by decide +kernel
theorem test_P3_reserved_completion :
    results (engineTurn { running 15 200 [] with snap := ⟨15, 200, 0⟩ })
      = some [0x56, 0, 0, 0, 0, 0x0000C80F, 0] := by
  decide

theorem test_P_1_bad_command_over_width_and_length :
    results (engineTurn { tooLong 0 with busy := true, snap := ⟨7, 0, 99999⟩ })
      = some [0x56, 0, 0, 0, 0, 0x00000007, 0] := by
  decide

/-! ### The datapath traces (sections 4 and 5 of the vectors) -/

theorem test_X2_shifter_carry_step :
    shifterStep 6 [77, 97] ⟨0, 6, 0, 0, 1⟩ = (⟨1, 0, 1, 2, 1⟩, none) := by decide
theorem test_X2_shifter_virtual_byte_step :
    shifterStep 6 [77, 97] ⟨2, 0, 1, 4, 2⟩ = (⟨2, 2, 0, 0, 3⟩, some 4) := by decide
theorem test_X2d_packer_split_step : packerStep 6 22 ⟨1, 6, 19, 0⟩ = (⟨2, 4, 6, 1⟩, some 77) := by decide
theorem test_X2d_packer_fit_step : packerStep 6 19 ⟨0, 0, 0, 0⟩ = (⟨1, 6, 19, 0⟩, none) := by decide
theorem test_dec_leaves_the_packer_at_its_end :
    (next? (engineTurn (running 3 6 [19, 22, 4]))).map (fun s => (s.packer, s.subPhase))
      = some (⟨3, 2, 0, 2⟩, .pack) := by decide +kernel

/-! ### Reset -/

theorem test_reset_memory_wf : State.reset.inBuf.wf = true ∧ State.reset.outBuf.wf = true := by decide

/-! ### Witnesses: a state and operands that meet each statement's hypotheses -/

/-- The block of `idle` meets the invariant. -/
theorem idle_inv (width : BitVec 8) (bs : List Byte) (hb : bs.length ≤ 16) : Inv (idle width bs) where
  capacity := (by decide : 1 ≤ 16 ∧ 16 ≤ 65536)
  in_wf := Memory.wf_writeFrom bs _ (by rfl)
  out_wf := by rfl
  in_below := show Memory.below 16 (Memory.writeFrom [] 0 bs) = true from
    Memory.below_writeFrom bs 0 (by omega) (by rfl)
  out_below := by rfl
  ecode_known := Nat.zero_le _
  not_both := fun _ => rfl
  busy_cleared := fun _ => ⟨rfl, rfl, rfl, rfl, rfl, rfl, rfl⟩
  busy_snap := fun h => absurd h (by decide : ¬ false = true)
  error_form := fun h => absurd rfl h
  payload_zero := fun _ => rfl
  index_zero := fun _ => rfl
  outLen_bound := Nat.zero_le _
  fullg_bound := Nat.zero_le _
  rin_bound := (by decide : (BitVec.extractLsb' 0 8 0#32).toNat < 8)
  rout_bound := (by decide : (BitVec.extractLsb' 8 8 0#32).toNat ≤ 8)
  resid_zeros := (by decide : BitVec.extractLsb' 17 15 0#32 = 0)
  info_zeros := (by decide : BitVec.extractLsb' 20 12 0#32 = 0)

/-- The running block of `running` meets the invariant. -/
theorem running_inv (bs : List Byte) (hb : bs.length ≤ 16) : Inv (running 2 6 bs) :=
  { idle_inv 6 bs hb with
    not_both := fun _ => rfl
    busy_cleared := fun _ => ⟨rfl, rfl, rfl, rfl, rfl, rfl, rfl⟩
    busy_snap := fun _ => ⟨(by decide : (2 : BitVec 4) ≠ 0), rfl, rfl⟩ }

/-- The block of `tooLong` meets the invariant. -/
theorem tooLong_inv (width : BitVec 8) : Inv (tooLong width) :=
  { idle_inv width [] (by decide) with busy_snap := fun h => absurd h (by decide : ¬ false = true) }

/-- IN holds the bytes that `idle` puts there. -/
theorem idle_holds (width : BitVec 8) (bs : List Byte) (hb : bs.length < 2 ^ 32) : InHolds (idle width bs) bs where
  length := (Nat.mod_eq_of_lt hb).symm
  bytes := fun i hi => by simp [idle, Memory.read?_writeFrom, hi]

theorem witness_DecodeOfEncode : Instr.wellFormed (.wr32 0x0000C 3) = true ∧ Instr.wellFormed .enc = true := by decide
theorem witness_CommandWordHighBits : BitVec.extractLsb' 0 4 0xFFFFFFF2#32 = BitVec.extractLsb' 0 4 0x2#32 := by decide
theorem witness_StepRunsTheDecodedRequest :
    (State.reset.withFetchWord 8 2).inputs = .bus ⟨false, 0b10, 0, 0⟩ :: [] := by decide
theorem witness_StepGivesTheEngineItsTurn :
    ({ State.reset with inputs := [.engine] } : State).inputs = .engine :: []
      ∧ ({ State.reset with inputs := [.rst] } : State).inputs = .rst :: []
      ∧ ({ State.reset with inputs := [.wait 1] } : State).inputs = .wait 1 :: []
      ∧ State.reset.inputs = [] ∧ State.reset.busy = false := by decide
theorem witness_BusErrors :
    (¬ LegalRequest ⟨false, 0b10, 0xFFE, 0⟩ ∧ ¬ LegalRequest ⟨false, 0b11, 0x10000, 0⟩
      ∧ ¬ LegalRequest ⟨true, 0b01, 0x1FFFF, 0⟩) ∧ LegalRequest ⟨false, 0b10, 0xFFC, 0⟩
      ∧ LegalRequest ⟨true, 0b00, 0x1000, 0⟩ := by
  simp [LegalRequest, LegalAccess]
theorem witness_LegalAccessStays : AccessWidth 4 ∧ LegalAccess 4 0x7FFFC#20 ∧ 3 < 4 := by
  simp [AccessWidth, LegalAccess]
theorem witness_RegisterReads : (0xFFC#20).toNat < 0x1000 ∧ (0xFFC#20).toNat % 4 = 0 ∧ (0xFFC#20).toNat ≠ 0x14 := by
  decide
theorem witness_ReadsChangeOnlyTheResponse : AccessWidth 1 ∧ AccessWidth 2 ∧ AccessWidth 4 := by
  simp [AccessWidth]
theorem witness_InWindowReads :
    AccessWidth 4 ∧ 0x10000 ≤ (0x10010#20).toNat ∧ (0x10010#20).toNat < 0x20000 ∧ (0x10010#20).toNat % 4 = 0
      ∧ (0x10010#20).toNat - 0x10000 + 1 < port.inCap
      ∧ Memory.read? port.inBuf ((0x10010#20).toNat - 0x10000 + 1) = some 18
      ∧ port.inCap ≤ (0x10010#20).toNat - 0x10000 + 2 := by
  unfold AccessWidth; decide
theorem witness_OutWindowReads :
    AccessWidth 4 ∧ 0x80000 ≤ (0x80090#20).toNat ∧ (0x80090#20).toNat % 4 = 0 ∧ port.busy = false
      ∧ (0x8008C#20).toNat - 0x80000 + 3 < 8 * port.inCap ∧ 8 * port.inCap ≤ (0x80090#20).toNat - 0x80000
      ∧ Memory.read? ({ port with outBuf := [(143, 7)] } : State).outBuf ((0x8008C#20).toNat - 0x80000 + 3)
        = some 7 := by
  unfold AccessWidth; decide
theorem witness_UnmappedAndReserved :
    (AccessWidth 4 ∧ LegalAccess 4 0x30#20 ∧ 0x30 ≤ (0x30#20).toNat ∧ (0x30#20).toNat < 0x10000)
      ∧ (AccessWidth 1 ∧ LegalAccess 1 0x7FFFF#20 ∧ 0x20000 ≤ (0x7FFFF#20).toNat ∧ (0x7FFFF#20).toNat < 0x80000) := by
  simp [AccessWidth, LegalAccess]
theorem witness_RegisterWrites :
    State.reset.busy = false ∧ (0x4#20).toNat % 4 = 0 ∧ (0x4#20).toNat < 0x8 ∧ 0x18 ≤ (0x2C#20).toNat
      ∧ (0x2C#20).toNat < 0x30 := by decide
theorem witness_WritesWhileBusy :
    (AccessWidth 4 ∧ LegalAccess 4 0x1000C#20 ∧ (running 2 6 [77]).inCap ≤ 65536 ∧ (running 2 6 [77]).busy = true)
      ∧ Droppable (running 2 6 [77]) 4 0x1000C#20 ∧ ¬ Droppable (running 2 6 [77]) 4 0x10010#20
      ∧ LegalAccess 4 0x10010#20 ∧ LegalAccess 4 0x14#20 := by
  refine ⟨⟨by simp [AccessWidth], by simp [LegalAccess], by decide, rfl⟩, ?_, ?_, by simp [LegalAccess],
    by simp [LegalAccess]⟩
  · exact .inr (.inr (.inr ⟨3, by decide, .inl ⟨by decide, by decide⟩⟩))
  · simp [Droppable, TouchesBuffer, running, idle, State.reset, State.resetWith, Config.resetInCap]
    omega
theorem witness_WindowWrites :
    AccessWidth 2 ∧ (0x10010#20).toNat % 2 = 0 ∧ State.reset.busy = false ∧ 0x10000 ≤ (0x10010#20).toNat
      ∧ (0x10010#20).toNat < 0x20000 ∧ 0x80000 ≤ (0xFFFFE#20).toNat ∧ (0xFFFFE#20).toNat % 2 = 0 := by
  unfold AccessWidth; decide
theorem witness_ReadAfterWrite :
    (AccessWidth 4 ∧ (0x1000C#20).toNat % 4 = 0 ∧ State.reset.busy = false ∧ 0x10000 ≤ (0x1000C#20).toNat
        ∧ (0x1000C#20).toNat < 0x20000 ∧ (0x1000C#20).toNat + 4 ≤ 0x10000 + State.reset.inCap)
      ∧ (0x80000 ≤ (0x8007C#20).toNat ∧ (0x8007C#20).toNat % 4 = 0
        ∧ (0x8007C#20).toNat + 4 ≤ 0x80000 + 8 * State.reset.inCap) := by
  unfold AccessWidth; decide
theorem witness_RepeatedWrite : AccessWidth 4 ∧ (0x10000#20) ≠ 0x00010#20 := by unfold AccessWidth; decide
theorem witness_CommandsWhileBusy : opOf .nop = some 0 ∧ opOf .reservedOpF = some 0xF
    ∧ (running 2 6 [77]).busy = true := by decide
theorem witness_Nop : (idle 6 []).busy = false ∧ (running 2 6 []).busy = true := by decide
theorem witness_Accept : opOf .gsz = some 1 ∧ (1 : BitVec 4) ≠ 0 ∧ (idle 6 [77]).busy = false := by decide
theorem witness_BusyIsVisible :
    opOf .gsz = some 1 ∧ (1 : BitVec 4) ≠ 0 ∧ (idle 6 []).busy = false
      ∧ (next? (engineTurn (running 1 6 []))).isSome = true
      ∧ ∀ r ∈ [(⟨false, 0b10, 0x18, 0⟩ : BusReq), ⟨true, 0b10, 0x10, 0⟩],
          opOf (decode r) = none ∨ opOf (decode r) = some 0 := by decide
theorem witness_ReservedCommand : opOf .reservedOp5 = some 5 ∧ 5 ≤ (5 : BitVec 4).toNat ∧ (idle 0 []).busy = false := by
  decide
theorem witness_IllegalWidth :
    (idle 8 []).busy = false ∧ ¬ LegalWidth (idle 8 []).width ∧ ¬ LegalWidth (idle 0 []).width := by
  unfold LegalWidth; decide
theorem witness_Gsz : (idle 7 []).busy = false ∧ LegalWidth (idle 7 []).width ∧ ¬ LegalWidth (idle 8 []).width := by
  unfold LegalWidth; decide
theorem witness_TooLongInput :
    Inv (tooLong 6) ∧ (tooLong 6).busy = false ∧ LegalWidth (tooLong 6).width
      ∧ (tooLong 6).inCap < (tooLong 6).len.toNat := by
  refine ⟨tooLong_inv 6, rfl, ?_, by decide⟩
  unfold LegalWidth; decide
theorem witness_EncWritesTheSymbols :
    (idle 6 [77, 97]).busy = false ∧ LegalWidth (idle 6 [77, 97]).width
      ∧ (idle 6 [77, 97]).len.toNat ≤ (idle 6 [77, 97]).inCap ∧ (idle 6 [77, 97]).inCap ≤ 65536
      ∧ InHolds (idle 6 [77, 97]) [77, 97] := by
  refine ⟨rfl, ?_, by decide, by decide, idle_holds _ _ (by decide)⟩
  unfold LegalWidth; decide
theorem witness_DecWritesTheBytes :
    (idle 6 [19, 22, 4]).busy = false ∧ LegalWidth (idle 6 [19, 22, 4]).width
      ∧ (idle 6 [19, 22, 4]).len.toNat ≤ (idle 6 [19, 22, 4]).inCap ∧ (idle 6 [19, 22, 4]).inCap ≤ 65536
      ∧ InHolds (idle 6 [19, 22, 4]) [19, 22, 4] ∧ ValidSymbols 6 [19, 22, 4] ∧ ovhValue [19, 22, 4] 6 = 0 := by
  refine ⟨rfl, ?_, by decide, by decide, idle_holds _ _ (by decide), ?_, by decide +kernel⟩
  · unfold LegalWidth; decide
  · unfold ValidSymbols; decide
theorem witness_ChkIsDec :
    ((idle 6 [19, 17]).busy = false ∧ InHolds (idle 6 [19, 17]) [19, 17])
      ∧ ((idle 9 []).busy = false ∧ ¬ LegalWidth (idle 9 []).width)
      ∧ (tooLong 6).busy = false ∧ (tooLong 6).inCap < (tooLong 6).len.toNat := by
  refine ⟨⟨rfl, idle_holds _ _ (by decide)⟩, ⟨rfl, ?_⟩, rfl, by decide⟩
  unfold LegalWidth; decide
theorem witness_FirstInvalidSymbol :
    (idle 4 [3, 16, 20]).busy = false ∧ LegalWidth (idle 4 [3, 16, 20]).width
      ∧ (idle 4 [3, 16, 20]).len.toNat ≤ (idle 4 [3, 16, 20]).inCap ∧ InHolds (idle 4 [3, 16, 20]) [3, 16, 20]
      ∧ ([3, 16, 20] : List Byte)[1]? = some 16 ∧ 2 ^ 4 ≤ (16 : Byte).toNat
      ∧ ValidSymbols 4 (([3, 16, 20] : List Byte).take 1) := by
  refine ⟨rfl, ?_, by decide, idle_holds _ _ (by decide), by decide, by decide, ?_⟩
  · unfold LegalWidth; decide
  · unfold ValidSymbols; decide
theorem witness_NonzeroOverhang :
    (idle 6 [19, 17]).busy = false ∧ LegalWidth (idle 6 [19, 17]).width
      ∧ (idle 6 [19, 17]).len.toNat ≤ (idle 6 [19, 17]).inCap ∧ InHolds (idle 6 [19, 17]) [19, 17]
      ∧ ValidSymbols 6 [19, 17] ∧ ovhValue [19, 17] 6 ≠ 0 := by
  refine ⟨rfl, ?_, by decide, idle_holds _ _ (by decide), ?_, by decide +kernel⟩
  · unfold LegalWidth; decide
  · unfold ValidSymbols; decide
theorem witness_UnwrittenInput :
    ({ idle 6 [1, 2] with inBuf := [(0, 1)] } : State).busy = false
      ∧ LegalWidth ({ idle 6 [1, 2] with inBuf := [(0, 1)] } : State).width
      ∧ ({ idle 6 [1, 2] with inBuf := [(0, 1)] } : State).len.toNat ≤ State.reset.inCap
      ∧ 1 < ({ idle 6 [1, 2] with inBuf := [(0, 1)] } : State).len.toNat
      ∧ Memory.read? ({ idle 6 [1, 2] with inBuf := [(0, 1)] } : State).inBuf 1 = none
      ∧ ∀ j, j < 1 → (Memory.read? ({ idle 6 [1, 2] with inBuf := [(0, 1)] } : State).inBuf j).isSome = true := by
  unfold LegalWidth; decide
theorem witness_EmptyInput :
    (idle 6 []).busy = false ∧ (idle 6 []).len = 0 ∧ LegalWidth (idle 6 []).width ∧ ¬ LegalWidth (idle 9 []).width := by
  unfold LegalWidth; decide
/-- P-1: a reserved command where the width and LEN are illegal too. -/
theorem witness_Errors_BadCommand :
    Inv (tooLong 0) ∧ opOf .reservedOp7 = some 7 ∧ (7 : BitVec 4) ≠ 0 ∧ (tooLong 0).busy = false
      ∧ 5 ≤ (7 : BitVec 4).toNat ∧ ¬ LegalWidth (tooLong 0).width ∧ (tooLong 0).inCap < (tooLong 0).len.toNat := by
  refine ⟨tooLong_inv 0, rfl, by decide, rfl, by decide, ?_, by decide⟩
  unfold LegalWidth; decide
/-- P-4: ENC where the width and LEN are illegal. -/
theorem witness_Errors_InvalidWidth :
    Inv (tooLong 0) ∧ opOf .enc = some 2 ∧ (2 : BitVec 4) ≠ 0 ∧ (tooLong 0).busy = false
      ∧ (2 : BitVec 4).toNat < 5 ∧ ¬ LegalWidth (tooLong 0).width ∧ (tooLong 0).inCap < (tooLong 0).len.toNat := by
  refine ⟨tooLong_inv 0, rfl, by decide, rfl, by decide, ?_, by decide⟩
  unfold LegalWidth; decide
/-- GSZ, and BadLength: a legal width and an illegal LEN. -/
theorem witness_Errors_BadLength :
    Inv (tooLong 6) ∧ opOf .gsz = some 1 ∧ opOf .chk = some 4 ∧ (tooLong 6).busy = false
      ∧ LegalWidth (tooLong 6).width ∧ 2 ≤ (4 : BitVec 4).toNat ∧ (4 : BitVec 4).toNat ≤ 4
      ∧ (tooLong 6).inCap < (tooLong 6).len.toNat := by
  refine ⟨tooLong_inv 6, rfl, rfl, rfl, ?_, by decide, by decide, by decide⟩
  unfold LegalWidth; decide
/-- Each of the clauses that read IN: an invalid symbol, a nonzero overhang, and neither. -/
theorem witness_Errors_Elements :
    (opOf .enc = some 2 ∧ opOf .dec = some 3)
      ∧ (∀ bs ∈ [([1, 64] : List Byte), [1], [0]], Inv (idle 6 bs) ∧ (idle 6 bs).busy = false ∧ InHolds (idle 6 bs) bs
          ∧ LegalWidth (idle 6 bs).width ∧ (idle 6 bs).len.toNat ≤ (idle 6 bs).inCap)
      ∧ (¬ ValidSymbols 6 [1, 64] ∧ ([1, 64] : List Byte)[1]? = some 64 ∧ 2 ^ 6 ≤ (64 : Byte).toNat
          ∧ ValidSymbols 6 (([1, 64] : List Byte).take 1))
      ∧ (ValidSymbols 6 [1] ∧ ovhValue [1] 6 ≠ 0) ∧ ValidSymbols 6 [0] ∧ ovhValue [0] 6 = 0 := by
  refine ⟨⟨rfl, rfl⟩, ?_, ⟨?_, by decide, by decide, ?_⟩, ⟨?_, by decide +kernel⟩, ?_, by decide +kernel⟩
  · have legal : LegalWidth 6 := by unfold LegalWidth; decide
    simp only [List.forall_mem_cons, List.not_mem_nil, false_imp_iff, implies_true, and_true]
    exact ⟨⟨idle_inv _ _ (by decide), rfl, idle_holds _ _ (by decide), legal, by decide⟩,
      ⟨idle_inv _ _ (by decide), rfl, idle_holds _ _ (by decide), legal, by decide⟩,
      idle_inv _ _ (by decide), rfl, idle_holds _ _ (by decide), legal, by decide⟩
  all_goals unfold ValidSymbols; decide
theorem witness_CompletionTouches :
    Inv (running 2 6 []) ∧ (running 2 6 []).busy = true
      ∧ (next? (engineTurn (running 2 6 []))).isSome = true := by
  refine ⟨running_inv [] (by decide), rfl, by decide +kernel⟩
theorem witness_AcceptedCommandsComplete :
    Inv (running 2 6 [77]) ∧ (running 2 6 [77]).busy = true
      ∧ ∀ i, i < (running 2 6 [77]).len.toNat → (Memory.read? (running 2 6 [77]).inBuf i).isSome = true := by
  refine ⟨running_inv [77] (by decide), rfl, by decide⟩
/-- Two blocks that differ in OUT and in an IN byte at ELEN. -/
theorem witness_CommandResult :
    (running 4 6 [77]).busy = true
      ∧ ({ running 4 6 [77] with inBuf := [(0, 77), (1, 5)], outBuf := [(0, 1)] } : State).snap = (running 4 6 [77]).snap
      ∧ (∀ i, i < (running 4 6 [77]).snap.elen.toNat →
          Memory.read? [(0, 77), (1, 5)] i = Memory.read? (running 4 6 [77]).inBuf i)
      ∧ (next? (engineTurn (running 4 6 [77]))).isSome = true := by
  refine ⟨rfl, rfl, by decide, by decide +kernel⟩
theorem witness_DatapathRegisters :
    SameButDatapath State.reset { State.reset with shifter := ⟨1, 1, 1, 1, 1⟩, subPhase := .pack } := by rfl
theorem witness_BusyChanges :
    (next? (step (State.reset.withFetchWord 32 1))).map (·.busy) = some true
      ∧ (next? (step (running 1 6 []))).map (·.busy) = some false := by decide
theorem witness_WdropChanges :
    (next? (step ((running 1 6 []).withFetchWord 32 1))).map (·.wdrop) = some true
      ∧ (next? (step { running 1 6 [] with
          wdrop := true, inputs := [.bus ⟨true, 0b10, 0x00014, 0x100⟩] })).map (·.wdrop) = some false := by decide
theorem witness_WdropDroppedWrite :
    (running 1 6 []).inCap ≤ 65536 ∧ (running 1 6 []).busy = true ∧ LegalRequest ⟨true, 0b10, 0x1000C, 1⟩
      ∧ Droppable (running 1 6 []) (2 ^ (0b10 : BitVec 2).toNat) 0x1000C := by
  refine ⟨by decide, rfl, ?_, .inr (.inr (.inr ⟨3, by decide, .inl ⟨by decide, by decide⟩⟩))⟩
  simp [LegalRequest, LegalAccess]
theorem witness_LegalPrograms :
    Inv { running 2 6 (List.replicate 16 0) with inputs := [.bus ⟨true, 0b10, 0x0000C, 5⟩, .wait 2, .engine] }
      ∧ (∀ i, i < 16 → (Memory.read? (running 2 6 (List.replicate 16 0)).inBuf i).isSome = true)
      ∧ (running 2 6 (List.replicate 16 0)).resp.err = false
      ∧ ∀ e ∈ [Input.bus ⟨true, 0b10, 0x0000C, 5⟩, .wait 2, .engine],
          e = .engine ∨ (∃ late, e = .wait late) ∨ ∃ r, e = .bus r ∧ LegalRequest r := by
  have h := running_inv (List.replicate 16 0) (by decide)
  refine ⟨{ h with }, by decide, rfl, ?_⟩
  simp [LegalRequest, LegalAccess]
theorem witness_Race :
    Inv (running 2 6 [77]) ∧ (running 2 6 [77]).busy = true
      ∧ ∀ i, i < (running 2 6 [77]).len.toNat → (Memory.read? (running 2 6 [77]).inBuf i).isSome = true :=
  witness_AcceptedCommandsComplete
theorem witness_StepKeepsTheInvariant :
    Inv (running 2 6 [77]) ∧ (next? (step (running 2 6 [77]))).isSome = true :=
  ⟨running_inv [77] (by decide), by decide +kernel⟩
theorem witness_ResetValues : 1 ≤ 65536 ∧ (0x2C#20).toNat < 0x1000 ∧ (0x2C#20).toNat % 4 = 0 := by decide
theorem witness_ResetAborts :
    ({ running 2 6 [77] with inputs := [.rst] } : State).inputs = .rst :: [] := by decide
theorem witness_GroupConstants : (7 : BitVec 3) ≠ 0 := by decide
theorem witness_LegalN : 1 ≤ 7 ∧ (7 : Nat) ≤ 7 ∧ ([1, 2] : List Byte).length ≤ 65536 := by decide
theorem witness_DecOfEnc :
    (idle 6 [77, 97]).busy = false ∧ LegalWidth (idle 6 [77, 97]).width
      ∧ (idle 6 [77, 97]).len.toNat ≤ (idle 6 [77, 97]).inCap ∧ (idle 6 [77, 97]).inCap ≤ 65536
      ∧ encCount 6 2 ≤ (idle 6 [77, 97]).inCap ∧ InHolds (idle 6 [77, 97]) [77, 97]
      ∧ (idle 6 [19, 22, 4]).busy = false ∧ (idle 6 [19, 22, 4]).width = (idle 6 [77, 97]).width
      ∧ (idle 6 [19, 22, 4]).len = 3 := by
  refine ⟨rfl, ?_, by decide, by decide, by decide, idle_holds _ _ (by decide), rfl, rfl, rfl⟩
  unfold LegalWidth; decide
theorem witness_EncOfDec : ValidSymbols 6 [0] ∧ ovhValue [0] 6 = 0 ∧ ¬ ovhCount 6 1 < 6 := by
  refine ⟨?_, by decide +kernel, by decide⟩
  unfold ValidSymbols; decide

theorem witness_WaitEnds :
    Inv { running 2 6 [77] with inputs := [.wait 3] }
      ∧ (∀ i, i < (running 2 6 [77]).len.toNat → (Memory.read? (running 2 6 [77]).inBuf i).isSome = true)
      ∧ ({ idle 6 [] with inputs := [.wait 3] } : State).busy = false
      ∧ (next? (step { idle 6 [] with done := true, inputs := [.wait 3] })).isSome = true := by
  have h := running_inv [77] (by decide)
  exact ⟨{ h with }, by decide, rfl, by decide⟩

end Sys2Proof.Tests
end

/-! Proofs of the family 00_scope: the invariant of the block at reset and after every step. -/

namespace Sys2Proof.Machine

/-! ### The bounds of the length quantities -/

/-- What the invariant needs of the length quantities of `count` input elements (R33, R36, R140). -/
structure Lengths.Within (count : Nat) (l : Lengths) : Prop where
  outLen_le     : l.outLen ≤ 8 * count
  fullGroups_le : l.fullGroups ≤ count
  rin_lt        : l.rin < 8
  rout_le       : l.rout ≤ 8

/-- The group sizes of a width `n` (R130): at least one octet and one symbol, at most `n` octets and 8 symbols. -/
theorem groupConsts_bounds {n : Nat} (hn : 1 ≤ n) :
    1 ≤ (groupConsts n).ogs ∧ (groupConsts n).ogs ≤ n ∧ 1 ≤ (groupConsts n).sgs ∧ (groupConsts n).sgs ≤ 8 := by
  obtain ⟨hogs, hsgs⟩ := groupConsts_bits n
  have pos : 0 < (groupConsts n).lcm := Nat.lcm_pos (by decide) hn
  have le : (groupConsts n).lcm ≤ 8 * n := Nat.le_of_dvd (by omega) (Nat.lcm_dvd_mul 8 n)
  refine ⟨by omega, by omega, Nat.pos_of_mul_pos_right (hsgs ▸ pos), ?_⟩
  exact Nat.le_of_mul_le_mul_right (hsgs ▸ le) hn

/-- `ceil_div` is at most `c` where `c` units of `b` cover `a` (R13). -/
theorem ceilDiv_le_of_le_mul {a b c : Nat} (hb : 1 ≤ b) (h : a ≤ c * b) : ceilDiv a b ≤ c := by
  refine Nat.lt_succ_iff.mp (Nat.div_lt_of_lt_mul ?_)
  rw [Nat.mul_succ, Nat.mul_comm b c]
  omega

theorem encLen_within {n : Nat} (l : Nat) (hn : 1 ≤ n) (hn7 : n ≤ 7) : (encLen n l).Within l := by
  obtain ⟨hogs1, hogsn, hsgs1, hsgs8⟩ := groupConsts_bounds hn
  obtain ⟨hogs, hsgs⟩ := groupConsts_bits n
  have split := Nat.div_add_mod' l (groupConsts n).ogs
  have rin_lt : l % (groupConsts n).ogs < (groupConsts n).ogs := Nat.mod_lt _ hogs1
  refine ⟨?_, Nat.div_le_self _ _, show l % (groupConsts n).ogs < 8 by omega, ?_⟩
  · have groups : l / (groupConsts n).ogs * (groupConsts n).sgs ≤ l / (groupConsts n).ogs * (groupConsts n).ogs * 8 := by
      rw [Nat.mul_assoc, hogs, ← hsgs]
      exact Nat.mul_le_mul_left _ (Nat.le_mul_of_pos_right _ hn)
    have rest : ceilDiv (l % (groupConsts n).ogs * 8) n ≤ l % (groupConsts n).ogs * 8 :=
      ceilDiv_le_of_le_mul hn (Nat.le_mul_of_pos_right _ hn)
    show l / (groupConsts n).ogs * (groupConsts n).sgs + ceilDiv (l % (groupConsts n).ogs * 8) n ≤ 8 * l
    omega
  · exact (ceilDiv_le_of_le_mul hn (by omega)).trans hsgs8

theorem decLen_within {n : Nat} (m : Nat) (hn : 1 ≤ n) (hn7 : n ≤ 7) : (decLen n m).Within m := by
  obtain ⟨hogs1, hogsn, hsgs1, hsgs8⟩ := groupConsts_bounds hn
  obtain ⟨hogs, hsgs⟩ := groupConsts_bits n
  have split := Nat.div_add_mod' m (groupConsts n).sgs
  have rin_lt : m % (groupConsts n).sgs < (groupConsts n).sgs := Nat.mod_lt _ hsgs1
  have rout_le : m % (groupConsts n).sgs * n / 8 ≤ m % (groupConsts n).sgs :=
    Nat.div_le_of_le_mul (by rw [Nat.mul_comm 8]; exact Nat.mul_le_mul_left _ (by omega))
  refine ⟨?_, Nat.div_le_self _ _, show m % (groupConsts n).sgs < 8 by omega, ?_⟩
  · have ogs_le : (groupConsts n).ogs ≤ (groupConsts n).sgs := by
      have := Nat.mul_le_mul_left (groupConsts n).sgs (show n ≤ 8 by omega)
      omega
    have groups := Nat.mul_le_mul_left (m / (groupConsts n).sgs) ogs_le
    show m / (groupConsts n).sgs * (groupConsts n).ogs + m % (groupConsts n).sgs * n / 8 ≤ 8 * m
    omega
  · exact rout_le.trans (by omega)

/-! ### The bounds of a command's result -/

theorem legalWidth_iff {w : BitVec 8} : legalWidth w = true ↔ 1 ≤ w.toNat ∧ w.toNat ≤ 7 := by
  rw [legalWidth, Bool.and_eq_true, decide_eq_true_iff, decide_eq_true_iff, Config.maxWidth]

/-- What the invariant needs of a RESID word (R36). -/
structure ResidInRange (w : Word) : Prop where
  rin_lt  : (w.extractLsb' 0 8).toNat < 8
  rout_le : (w.extractLsb' 8 8).toNat ≤ 8
  zeros   : w.extractLsb' 17 15 = 0

theorem residInRange_zero : ResidInRange 0 := ⟨by decide, by decide, by decide⟩

theorem Lengths.Within.residInRange {count : Nat} {l : Lengths} (h : l.Within count) :
    ResidInRange (residWord l) := by
  obtain ⟨hrin, hrout, -, hzeros⟩ := packResid_fields (l.rin != 0) l.rout l.rin
  obtain ⟨-, -, rin_lt, rout_le⟩ := h
  exact ⟨by rw [residWord, hrin]; omega, by rw [residWord, hrout]; omega, hzeros⟩

/-- What the invariant needs of a command's result at capacity `cap`: the output fits in OUT and the registers are in
their ranges (R33, R36, R140), or the error code is a known one and only InvalidSymbol has an index (R30, R38). -/
def ExecResult.Within (cap : Nat) : ExecResult → Prop
  | .ok out outLen _ fullg resid => out.length ≤ 8 * cap ∧ outLen ≤ 8 * cap ∧ fullg ≤ cap ∧ ResidInRange resid
  | .err code _ _ index => code ≠ 0 ∧ code.toNat ≤ 5 ∧ (code ≠ 2 → index = 0)
  | .stopped _ => True

/-- A result whose registers come from length quantities within bounds is within bounds. -/
theorem Lengths.Within.ok_within {cap count : Nat} {l : Lengths} (h : l.Within count) (hc : count ≤ cap)
    {out : List Byte} (hout : out.length ≤ l.outLen) (res : GroupSizes) :
    (ExecResult.ok out l.outLen res l.fullGroups (residWord l)).Within cap := by
  have outLen_le := h.outLen_le
  exact ⟨by omega, by omega, h.fullGroups_le.trans hc, h.residInRange⟩

theorem encExec_within {cap n : Nat} {bs : List Byte} (hn : 1 ≤ n) (hn7 : n ≤ 7) (hc : bs.length ≤ cap) :
    (encExec n bs).Within cap :=
  (encLen_within bs.length hn hn7).ok_within hc (length_encodeBytes n bs).le _

theorem decExec_within {cap n : Nat} {syms : List Byte} (write : Bool) (hn : 1 ≤ n) (hn7 : n ≤ 7)
    (hc : syms.length ≤ cap) : (decExec n syms write).Within cap := by
  unfold decExec
  split
  case h_1 => exact ⟨by decide, by decide, fun h => absurd rfl h⟩
  case h_2 =>
    dsimp only
    split
    · exact ⟨by decide, by decide, fun _ => rfl⟩
    · refine (decLen_within syms.length hn hn7).ok_within hc ?_ _
      cases write
      · exact Nat.zero_le _
      · exact (length_decodeSymbols n syms).le

theorem execElements_within {cap n elen : Nat} (op : BitVec 4) (inBuf : Memory) (hn : 1 ≤ n) (hn7 : n ≤ 7)
    (hc : elen ≤ cap) : (execElements op n elen inBuf).Within cap := by
  have hlen : (Memory.elements inBuf elen).length ≤ cap := by simpa using hc
  unfold execElements
  split
  · exact trivial
  · dsimp only
    split_ifs
    · exact encExec_within hn hn7 hlen
    · exact decExec_within true hn hn7 hlen
    · exact decExec_within false hn hn7 hlen

/-- Every test of R208 gives a known error code, and a command that passes them all has a result within bounds. -/
theorem engineExec_within (cap : Nat) (snap : Snap) (inBuf : Memory) : (engineExec cap snap inBuf).Within cap := by
  unfold engineExec
  split_ifs with hop hres hwidth hgsz hlen
  · exact trivial
  · exact ⟨by decide, by decide, fun _ => rfl⟩
  · exact ⟨by decide, by decide, fun _ => rfl⟩
  · exact ⟨Nat.zero_le _, Nat.zero_le _, Nat.zero_le _, residInRange_zero⟩
  · exact ⟨by decide, by decide, fun _ => rfl⟩
  · obtain ⟨hn, hn7⟩ := legalWidth_iff.mp (by simpa using hwidth)
    exact execElements_within snap.op inBuf hn hn7 (Nat.le_of_not_lt hlen)

/-! ### What each operation on the state keeps -/

theorem resetWith_inv {cap : Nat} (h1 : 1 ≤ cap) (h2 : cap ≤ 65536) : Inv (State.resetWith cap) where
  capacity := ⟨h1, h2⟩
  in_wf := rfl
  out_wf := rfl
  in_below := rfl
  out_below := rfl
  ecode_known := Nat.zero_le _
  not_both := fun _ => rfl
  busy_cleared := fun _ => ⟨rfl, rfl, rfl, rfl, rfl, rfl, rfl⟩
  busy_snap := nofun
  error_form := fun h => absurd rfl h
  payload_zero := fun _ => rfl
  index_zero := fun _ => rfl
  outLen_bound := Nat.zero_le _
  fullg_bound := Nat.zero_le _
  rin_bound := residInRange_zero.rin_lt
  rout_bound := residInRange_zero.rout_le
  resid_zeros := residInRange_zero.zeros
  info_zeros := (by decide : BitVec.extractLsb' 20 12 0#32 = 0)

variable {s t : State}

/-- The response, the draws and the events to come are no part of the invariant. -/
theorem port_inv (h : Inv s) (resp : Response) (draws : Nat) (inputs : List Input) :
    Inv { s with resp := resp, draws := draws, inputs := inputs } := { h with }

theorem acknowledge_inv (h : Inv s) : Inv (acknowledge s) := port_inv h _ _ _

theorem setDrop_inv (h : Inv s) : Inv (setDrop s) := { h with }

theorem writeStatus_inv (h : Inv s) (v : Word) : Inv (writeStatus v s) := { h with }

theorem runDatapath_inv (h : Inv s) : Inv (runDatapath s) := by
  obtain ⟨shifter, packer, subPhase, hrun⟩ := runDatapath_frame s
  rw [hrun]
  exact { h with }

theorem resetBlock_inv (h : Inv s) : Inv (resetBlock s) :=
  port_inv (resetWith_inv h.capacity.1 h.capacity.2) _ _ _

/-- The accept clears the results and takes the snapshot, as R238 and R42 ask of a running command (R112). -/
theorem acceptCommand_inv (h : Inv s) {op : BitVec 4} (hop : op ≠ 0) : Inv (acceptCommand op s) :=
  { resetWith_inv h.capacity.1 h.capacity.2 with
    in_wf := h.in_wf
    out_wf := h.out_wf
    in_below := h.in_below
    out_below := h.out_below
    not_both := fun _ => rfl
    busy_cleared := fun _ => ⟨rfl, rfl, rfl, rfl, rfl, rfl, rfl⟩
    busy_snap := fun _ => ⟨hop, rfl, rfl⟩ }

theorem startCommand_inv (h : Inv s) (op : BitVec 4) : Inv (startCommand op s) := by
  obtain ⟨-, heq⟩ | ⟨hop, heq⟩ := startCommand_cases op s
  · rwa [heq]
  · rw [heq]
    exact acceptCommand_inv h hop

/-- CTRL and LEN are droppable, so they are written only while BUSY = 0, when the snapshot need not equal them (R236). -/
theorem performWrite_inv (h : Inv s) {w : Nat} {a : Offset} (v : Word)
    (hd : ¬ (s.busy = true ∧ droppable s a w = true)) : Inv (performWrite w a v s) := by
  obtain heq | ⟨hr, hreg, heq⟩ | ⟨hr, hreg, heq⟩ | ⟨-, -, heq⟩ | ⟨-, -, heq⟩ | ⟨-, heq⟩ | ⟨-, heq⟩ :=
    performWrite_cases w a v s <;> rw [heq]
  · exact h
  · exact { h with busy_snap := fun hb => absurd ⟨hb, by simp [droppable, hr, hreg]⟩ hd }
  · exact { h with busy_snap := fun hb => absurd ⟨hb, by simp [droppable, hr, hreg]⟩ hd }
  · exact startCommand_inv h _
  · exact writeStatus_inv h v
  · exact { h with
      in_wf := Memory.wf_writeBelow _ _ _ h.in_wf
      in_below := Memory.below_writeBelow _ _ h.in_below }
  · exact { h with
      out_wf := Memory.wf_writeBelow _ _ _ h.out_wf
      out_below := Memory.below_writeBelow _ _ h.out_below }

theorem exec_inv (h : Inv s) {i : Instr} (hx : exec i s = .next t) : Inv t := by
  obtain ⟨w, a, -, rfl⟩ | rfl | ⟨-, rfl⟩ | ⟨-, op, rfl⟩ | ⟨w, a, v, -, hd, rfl⟩ := exec_cases hx
  · exact port_inv h _ _ _
  · exact port_inv h _ _ _
  · exact acknowledge_inv (setDrop_inv h)
  · exact acknowledge_inv (startCommand_inv h op)
  · exact acknowledge_inv (performWrite_inv h v hd)

/-! ### The engine and the step -/

theorem completeOk_inv (h : Inv s) {out : List Byte} {outLen fullg : Nat} {resid : Word} {sizes : GroupSizes}
    (hr : (ExecResult.ok out outLen sizes fullg resid).Within s.inCap) (res : Word) :
    Inv (completeOk out outLen res fullg resid s) := by
  obtain ⟨hout, houtLen, hfullg, hrin, hrout, hzeros⟩ := hr
  exact { resetWith_inv h.capacity.1 h.capacity.2 with
    in_wf := h.in_wf
    out_wf := Memory.wf_writeFrom out 0 h.out_wf
    in_below := h.in_below
    out_below := Memory.below_writeFrom out 0 (by rwa [Nat.zero_add]) h.out_below
    not_both := nofun
    busy_cleared := nofun
    busy_snap := nofun
    error_form := fun h0 => absurd rfl h0
    outLen_bound := (Nat.mod_le outLen _).trans houtLen
    fullg_bound := (Nat.mod_le fullg _).trans (hfullg.trans h.capacity.2)
    rin_bound := hrin
    rout_bound := hrout
    resid_zeros := hzeros }

theorem completeErr_inv (h : Inv s) {code : BitVec 4} {value : BitVec 8} {ovhbits index : Nat}
    (hr : (ExecResult.err code value ovhbits index).Within s.inCap) :
    Inv (completeErr code value ovhbits index s) := by
  obtain ⟨hcode, hknown, hindex⟩ := hr
  obtain ⟨-, -, -, hzeros⟩ := packErrInfo_fields ovhbits s.snap.w value
  exact { resetWith_inv h.capacity.1 h.capacity.2 with
    in_wf := h.in_wf
    out_wf := h.out_wf
    in_below := h.in_below
    out_below := h.out_below
    ecode_known := hknown
    not_both := nofun
    busy_cleared := nofun
    busy_snap := nofun
    error_form := fun _ => ⟨rfl, rfl, rfl, rfl, rfl⟩
    payload_zero := fun h0 => absurd h0 hcode
    index_zero := fun h2 => by rw [completeErr_errIndex, hindex h2]; rfl
    info_zeros := hzeros }

theorem engineTurn_inv (h : Inv s) (hx : engineTurn s = .next t) : Inv t := by
  obtain ⟨-, rfl⟩ | ⟨-, hcompletion⟩ := engineTurn_cases hx
  · exact h
  have hrun : Inv (runDatapath s) := runDatapath_inv h
  have hwithin : (engineExec s.inCap s.snap s.inBuf).Within (runDatapath s).inCap :=
    (runDatapath_inCap s).symm ▸ engineExec_within s.inCap s.snap s.inBuf
  obtain ⟨_, _, _, _, _, hr, rfl⟩ | ⟨_, _, _, _, hr, rfl⟩ := completion_cases hcompletion
  · exact completeOk_inv hrun (hr ▸ hwithin) _
  · exact completeErr_inv hrun (hr ▸ hwithin)

theorem waitTurn_inv (h : Inv s) {late : Nat} (hx : waitTurn late s = .next t) : Inv t := by
  rw [waitTurn_next] at hx
  cases hx
  exact port_inv h _ _ _

theorem step_inv (h : Inv s) (hx : step s = .next t) : Inv t := by
  have take (rest : List Input) : Inv { s with inputs := rest } := port_inv h _ _ rest
  obtain ⟨-, hx⟩ | ⟨_, rest, -, hx⟩ | ⟨rest, -, hx⟩ | ⟨_, rest, -, hx⟩ | ⟨rest, -, rfl⟩ := step_cases hx
  · exact engineTurn_inv h hx
  · exact exec_inv (take rest) hx
  · exact engineTurn_inv (take rest) hx
  · exact waitTurn_inv (take rest) hx
  · exact resetBlock_inv (take rest)

/-- Settles O49, at the capacity of `State.reset` and at every one R9 allows. -/
theorem resetMeetsTheInvariant : Obligations.ResetMeetsTheInvariant :=
  ⟨resetWith_inv (by decide) (by decide), fun _ h1 h2 => resetWith_inv h1 h2⟩

/-- Settles O50, by the five kinds of step, each of whose operations keeps the invariant. -/
theorem stepKeepsTheInvariant : Obligations.StepKeepsTheInvariant :=
  fun _ _ h hx => step_inv h hx

end Sys2Proof.Machine

/-! Proofs of the family 10_state: the hidden datapath registers, the registers as the host sees them, and when BUSY
and WDROP change. -/

namespace Sys2Proof.Machine

open Sys2Proof.Rules

/-! ### The datapath registers are not observable -/

/-- `s` with the registers of R43 to R45 set to their start values: what is left is what a step may depend on. -/
def hideDatapath (s : State) : State :=
  { s with shifter := Shifter.start, packer := Packer.start, subPhase := .validate }

/-- What an outcome shows once the datapath registers are hidden. -/
def hideInOutcome : Host.Outcome State Fault Refusal → Host.Outcome State Fault Refusal
  | .next t    => .next (hideDatapath t)
  | .fault f   => .fault f
  | .refused r => .refused r

theorem sameButDatapath_iff {s s' : State} : SameButDatapath s s' ↔ hideDatapath s' = hideDatapath s := by
  constructor <;> intro h
  · refine (congrArg hideDatapath h).trans ?_
    rfl
  · calc s' = { hideDatapath s' with shifter := s'.shifter, packer := s'.packer, subPhase := s'.subPhase } := rfl
      _ = { hideDatapath s with shifter := s'.shifter, packer := s'.packer, subPhase := s'.subPhase } := by rw [h]

theorem hideInOutcome_eq_next {o : Host.Outcome State Fault Refusal} {u : State} :
    hideInOutcome o = .next u ↔ ∃ t, o = .next t ∧ hideDatapath t = u := by
  cases o <;> simp [hideInOutcome]

theorem hideInOutcome_eq_fault {o : Host.Outcome State Fault Refusal} {f : Fault} :
    hideInOutcome o = .fault f ↔ o = .fault f := by
  cases o <;> simp [hideInOutcome]

theorem hideInOutcome_eq_refused {o : Host.Outcome State Fault Refusal} {r : Refusal} :
    hideInOutcome o = .refused r ↔ o = .refused r := by
  cases o <;> simp [hideInOutcome]

@[simp] theorem hideDatapath_busy (s : State) : (hideDatapath s).busy = s.busy := rfl
@[simp] theorem hideDatapath_inputs (s : State) : (hideDatapath s).inputs = s.inputs := rfl

@[simp] theorem droppable_hideDatapath (s : State) (a : Offset) (w : Nat) :
    droppable (hideDatapath s) a w = droppable s a w := rfl

theorem startCommand_hideDatapath (op : BitVec 4) (s : State) :
    hideDatapath (startCommand op (hideDatapath s)) = hideDatapath (startCommand op s) := by
  unfold startCommand
  split <;> rfl

theorem performWrite_hideDatapath (w : Nat) (a : Offset) (v : Word) (s : State) :
    hideDatapath (performWrite w a v (hideDatapath s)) = hideDatapath (performWrite w a v s) := by
  unfold performWrite
  split
  case h_1 =>
    unfold writeReg
    split
    case h_3 => exact startCommand_hideDatapath _ s
    all_goals rfl
  all_goals rfl

theorem commandRequest_hideDatapath (op : BitVec 4) (s : State) :
    hideInOutcome (commandRequest op (hideDatapath s)) = hideInOutcome (commandRequest op s) := by
  unfold commandRequest
  rw [hideDatapath_busy]
  split
  · rfl
  · exact congrArg (fun t : State => Host.Outcome.next (acknowledge t)) (startCommand_hideDatapath op s)

theorem busRead_hideDatapath (w : Nat) (a : Offset) (s : State) :
    hideInOutcome (busRead w a (hideDatapath s)) = hideInOutcome (busRead w a s) := by
  unfold busRead
  split <;> rfl

theorem busWrite_hideDatapath (w : Nat) (a : Offset) (v : Word) (s : State) :
    hideInOutcome (busWrite w a v (hideDatapath s)) = hideInOutcome (busWrite w a v s) := by
  unfold busWrite
  rw [hideDatapath_busy, droppable_hideDatapath]
  split_ifs
  · rfl
  · exact congrArg (fun t : State => Host.Outcome.next (acknowledge t)) (performWrite_hideDatapath w a v s)
  · rfl

theorem exec_hideDatapath (i : Instr) (s : State) :
    hideInOutcome (exec i (hideDatapath s)) = hideInOutcome (exec i s) := by
  cases i
  case rd8 | rd16 | rd32 => exact busRead_hideDatapath _ _ s
  case wr8 | wr16 | wr32 => exact busWrite_hideDatapath _ _ _ s
  case illegalBus3 | illegalBus7 => rfl
  all_goals exact commandRequest_hideDatapath _ s

theorem runDatapath_hideDatapath (s : State) : hideDatapath (runDatapath s) = hideDatapath s := by
  obtain ⟨shifter, packer, subPhase, hrun⟩ := runDatapath_frame s
  rw [hrun]
  rfl

/-- A completion computes from the snapshot and IN (R78), and changes only what the datapath registers are not. -/
theorem completion_hideDatapath (s : State) :
    hideInOutcome (completion (hideDatapath s)) = hideInOutcome (completion s) := by
  have run : hideDatapath (runDatapath (hideDatapath s)) = hideDatapath (runDatapath s) := by
    simp only [runDatapath_hideDatapath]; rfl
  unfold completion
  rw [show engineExec (hideDatapath s).inCap (hideDatapath s).snap (hideDatapath s).inBuf
    = engineExec s.inCap s.snap s.inBuf from rfl]
  split
  case h_1 out outLen res fullg resid _ =>
    exact congrArg (fun t : State => Host.Outcome.next (completeOk out outLen (resWord res) fullg resid t)) run
  case h_2 code value ovhbits index _ =>
    exact congrArg (fun t : State => Host.Outcome.next (completeErr code value ovhbits index t)) run
  case h_3 => rfl

theorem engineTurn_hideDatapath (s : State) :
    hideInOutcome (engineTurn (hideDatapath s)) = hideInOutcome (engineTurn s) := by
  unfold engineTurn
  rw [hideDatapath_busy]
  split
  · exact completion_hideDatapath s
  · rfl

theorem waitTurn_hideDatapath (late : Nat) (s : State) :
    hideInOutcome (waitTurn late (hideDatapath s)) = hideInOutcome (waitTurn late s) := by
  rw [waitTurn_next, waitTurn_next]
  rfl

/-- A step shows the same, whatever the datapath registers hold. -/
theorem step_hideDatapath (s : State) : hideInOutcome (step (hideDatapath s)) = hideInOutcome (step s) := by
  unfold step
  rw [hideDatapath_inputs]
  split
  case h_1 => exact engineTurn_hideDatapath s
  case h_2 rest _ => exact exec_hideDatapath _ { s with inputs := rest }
  case h_3 rest _ => exact engineTurn_hideDatapath { s with inputs := rest }
  case h_4 rest _ => exact waitTurn_hideDatapath _ { s with inputs := rest }
  case h_5 => rfl

/-- Settles O44: a step shows the same with the datapath registers hidden (`step_hideDatapath`), so two states that are
equal once those are hidden show the same. -/
theorem datapathRegistersAreNotObservable : Obligations.DatapathRegistersAreNotObservable := by
  intro s s' h
  have same : hideInOutcome (step s') = hideInOutcome (step s) := by
    rw [← step_hideDatapath s', sameButDatapath_iff.mp h, step_hideDatapath]
  refine ⟨fun t ht => ?_, fun f hf => ?_, fun r hr => ?_⟩
  · obtain ⟨t', ht', hide⟩ := hideInOutcome_eq_next.mp (same.trans (congrArg hideInOutcome ht))
    exact ⟨t', ht', sameButDatapath_iff.mpr hide⟩
  · exact hideInOutcome_eq_fault.mp (same.trans (congrArg hideInOutcome hf))
  · exact hideInOutcome_eq_refused.mp (same.trans (congrArg hideInOutcome hr))

/-! ### Where an access goes -/

theorem region_eq_registers_iff {a : Offset} : region a = .registers ↔ a.toNat < 0x1000 := by
  unfold region
  split_ifs with h <;> simp [h]

/-- The model's legality test is that of R68 and R69. -/
theorem legalAlign_iff {a : Offset} {w : Nat} : legalAlign a w = true ↔ LegalAccess w a := by
  unfold legalAlign region LegalAccess
  split_ifs <;> simp

theorem acknowledge_eq_answered (s : State) :
    acknowledge s = answered (Config.freeWord s.draws) (s.draws + 1) s := rfl

/-! ### 4-byte accesses to a register -/

section
variable {a : Offset} (s : State)

theorem exec_rd32_register (hr : a.toNat < 0x1000) (ha : a.toNat % 4 = 0) :
    exec (.rd32 a) s = .next { respond (readReg (regAt a) s) s with draws := s.draws + 4 } := by
  have legal : legalAlign a 4 = true := legalAlign_iff.mpr (by simp [LegalAccess, hr, ha])
  have data : readData 4 a s = readReg (regAt a) s := by rw [readData, region_eq_registers_iff.mpr hr]
  show busRead 4 a s = _
  rw [busRead, if_pos legal, data]

/-- A write to a register is performed, unless BUSY = 1 and the register is CTRL, LEN or CMD (R236). -/
theorem exec_wr32_register (v : Word) (hr : a.toNat < 0x1000) (ha : a.toNat % 4 = 0)
    (hd : s.busy = false ∨ (regAt a ≠ .ctrl ∧ regAt a ≠ .len ∧ regAt a ≠ .cmd)) :
    exec (.wr32 a v) s = .next (acknowledge (writeReg (regAt a) v s)) := by
  have hregion := region_eq_registers_iff.mpr hr
  have legal : legalAlign a 4 = true := legalAlign_iff.mpr (by simp [LegalAccess, hr, ha])
  have kept : (s.busy && droppable s a 4) = false := by
    obtain hb | ⟨hctrl, hlen, hcmd⟩ := hd
    · simp [hb]
    · simp [droppable, hregion, hctrl, hlen, hcmd]
  have effect : performWrite 4 a v s = writeReg (regAt a) v s := by rw [performWrite, hregion]
  show busWrite 4 a v s = _
  rw [busWrite, if_pos legal, kept, effect]
  rfl

end

/-- The table of R21, with the values of R22 to R39. -/
theorem readReg_regAt (s : State) {a : Offset} (hstatus : a.toNat ≠ 0x14) :
    readReg (regAt a) s =
      if a.toNat = 0x00 then 0x42520107#32
      else if a.toNat = 0x04 then BitVec.ofNat 32 s.inCap
      else if a.toNat = 0x08 then BitVec.ofNat 32 s.width.toNat
      else if a.toNat = 0x0C then s.len
      else if a.toNat = 0x18 then s.outLen
      else if a.toNat = 0x1C then s.res
      else if a.toNat = 0x20 then s.fullg
      else if a.toNat = 0x24 then s.resid
      else if a.toNat = 0x28 then s.errInfo
      else if a.toNat = 0x2C then s.errIndex
      else 0#32 := by
  unfold regAt
  split <;> simp_all [readReg, Config.idWord, capWord, ctrlWord]

/-- Settles O13: a register read returns `readReg`, which is the table of R21. -/
theorem registerReadsReturnTheirRegisters : Obligations.RegisterReadsReturnTheirRegisters := by
  intro s a hr ha hstatus
  refine ⟨s.draws + 4, ?_⟩
  rw [exec_rd32_register s hr ha, readReg_regAt s hstatus]
  rfl

/-! ### STATUS -/

/-- A bit of a word is a flag where the word's digit there is the flag's number. -/
theorem getLsbD_eq_iff {w : Nat} (v : BitVec w) (i : Nat) (b : Bool) :
    v.getLsbD i = b ↔ v.toNat / 2 ^ i % 2 = b.toNat := by
  rw [← Nat.toNat_testBit]
  cases b <;> simp [BitVec.getLsbD]

/-- STATUS holds ERR, ECODE and WDROP in their places, and its reserved bits read 0 (R29, R30, R32); for BUSY and DONE
see `statusWord_busy` and `statusWord_done`. -/
theorem statusWord_fields (s : State) :
    (statusWord s).getLsbD 2 = s.err ∧ (statusWord s).getLsbD 3 = false
      ∧ (statusWord s).extractLsb' 4 4 = s.ecode ∧ (statusWord s).getLsbD 8 = s.wdrop
      ∧ (statusWord s).extractLsb' 9 23 = 0#23 := by
  have hecode := s.ecode.isLt
  have hwdrop := s.wdrop.toNat_lt
  have herr := s.err.toNat_lt
  have hdone := s.done.toNat_lt
  have hbusy := s.busy.toNat_lt
  simp only [getLsbD_eq_iff, ← BitVec.toNat_inj, BitVec.extractLsb'_toNat, Nat.shiftRight_eq_div_pow, statusWord,
    BitVec.toNat_ofNat, Bool.toNat_false]
  omega

theorem writeStatus_eq (v : Word) (s : State) :
    writeStatus v s = { s with wdrop := if v.getLsbD 8 then false else s.wdrop } := by
  unfold writeStatus
  cases v.getLsbD 8 <;> simp

/-- Settles O14: a read of STATUS returns `statusWord`, and a write to it, which is never dropped, is `writeStatus`. -/
theorem statusReadsItsFlagsAndWritesClearWdrop : Obligations.StatusReadsItsFlagsAndWritesClearWdrop := by
  intro s
  constructor
  · obtain ⟨herr, hzero, hecode, hwdrop, hzeros⟩ := statusWord_fields s
    exact ⟨_, exec_rd32_register s (by decide) (by decide), rfl, statusWord_busy s, statusWord_done s, herr, hzero,
      hecode, hwdrop, hzeros⟩
  · intro v
    have write : exec (.wr32 0x00014#20 v) s = .next (acknowledge (writeStatus v s)) :=
      exec_wr32_register s v (by decide) (by decide) (.inr (by decide))
    exact ⟨_, _, by rw [write, acknowledge_eq_answered, writeStatus_eq]⟩

/-! ### Writes to the other registers -/

/-- No write changes a read-only register, and none of them is droppable (R22, R23, R33 to R38). -/
theorem readOnly_register {a : Offset} (h : a.toNat < 0x8 ∨ (0x18 ≤ a.toNat ∧ a.toNat < 0x30)) :
    (regAt a ≠ .ctrl ∧ regAt a ≠ .len ∧ regAt a ≠ .cmd) ∧ ∀ v s, writeReg (regAt a) v s = s := by
  unfold regAt
  split
  case h_3 | h_4 | h_5 | h_6 => omega
  all_goals exact ⟨by decide, fun _ _ => rfl⟩

/-- Settles O19: CTRL and LEN are written by `writeReg` while BUSY = 0, and `readOnly_register` covers the rest. -/
theorem registerWritesReachOnlyTheirRegister : Obligations.RegisterWritesReachOnlyTheirRegister := by
  intro s v
  refine ⟨fun hb => ?_, fun hb => ?_, fun a ha hro => ?_⟩
  · exact ⟨_, _, exec_wr32_register s v (by decide) (by decide) (.inl hb)⟩
  · exact ⟨_, _, exec_wr32_register s v (by decide) (by decide) (.inl hb)⟩
  · obtain ⟨hd, hkeep⟩ := readOnly_register hro
    exact ⟨_, _, by rw [exec_wr32_register s v (by omega) ha (.inr hd), hkeep, acknowledge_eq_answered]⟩

/-! ### What a request does -/

theorem opOf_decodeCmd (v : Word) : opOf (decodeCmd v) = some (v.extractLsb' 0 4) := by
  unfold decodeCmd
  generalize v.extractLsb' 0 4 = op
  revert op
  decide

/-- A command is its request (R111, R114), whichever of the sixteen it is. -/
theorem exec_of_opOf {i : Instr} {op : BitVec 4} (h : opOf i = some op) (s : State) :
    exec i s = commandRequest op s := by
  cases i <;> cases h <;> rfl

/-- A 4-byte write at CMD requests the command of its word (R104, R111, R114). -/
theorem busWrite_cmd (v : Word) (s : State) : busWrite 4 cmdOffset v s = commandRequest (v.extractLsb' 0 4) s := by
  cases hb : s.busy <;> simp [busWrite, commandRequest, hb] <;> rfl

theorem exec_decode_wr32 (a : Offset) (v : Word) (s : State) :
    exec (decode ⟨true, 0b10#2, a, v⟩) s = busWrite 4 a v s := by
  show exec (if a = cmdOffset then decodeCmd v else .wr32 a v) s = _
  split
  case isTrue h => rw [h, busWrite_cmd, exec_of_opOf (opOf_decodeCmd v)]
  case isFalse => rfl

/-- A request is performed as R66, R67 and R74 say for its width, whatever row it decodes to. -/
theorem exec_decode (r : BusReq) (s : State) :
    exec (decode r) s =
      if r.size = 0b11#2 then .next (busError s)
      else if r.we then busWrite (2 ^ r.size.toNat) r.addr r.wdata s
      else busRead (2 ^ r.size.toNat) r.addr s := by
  obtain ⟨we, size, addr, wdata⟩ := r
  have sizes : size = 0 ∨ size = 1 ∨ size = 2 ∨ size = 3 := by revert size; decide
  obtain rfl | rfl | rfl | rfl := sizes
  · cases we <;> rfl
  · cases we <;> rfl
  · cases we
    · rfl
    · exact exec_decode_wr32 addr wdata s
  · cases we <;> rfl

/-- A request that is answered is a legal write, dropped (R236) or performed (R67), or changes nothing but the
response. -/
theorem exec_decode_cases {r : BusReq} {s t : State} (h : exec (decode r) s = .next t) :
    (∃ resp draws, t = { s with resp := resp, draws := draws })
      ∨ (r.we = true ∧ LegalRequest r ∧ s.busy = true ∧ droppable s r.addr (2 ^ r.size.toNat) = true
          ∧ t = acknowledge (setDrop s))
      ∨ (r.we = true ∧ LegalRequest r ∧ ¬ (s.busy = true ∧ droppable s r.addr (2 ^ r.size.toNat) = true)
          ∧ t = acknowledge (performWrite (2 ^ r.size.toNat) r.addr r.wdata s)) := by
  rw [exec_decode] at h
  split_ifs at h with hsize hwe
  · cases h
    exact .inl ⟨_, _, rfl⟩
  · obtain ⟨legal, hb, hd, rfl⟩ | ⟨legal, hd, rfl⟩ | ⟨-, rfl⟩ := busWrite_cases h
    · exact .inr (.inl ⟨hwe, ⟨hsize, legalAlign_iff.mp legal⟩, hb, hd, rfl⟩)
    · exact .inr (.inr ⟨hwe, ⟨hsize, legalAlign_iff.mp legal⟩, hd, rfl⟩)
    · exact .inl ⟨_, _, rfl⟩
  · obtain ⟨-, rfl⟩ | ⟨-, rfl⟩ := busRead_cases h <;> exact .inl ⟨_, _, rfl⟩

theorem busRead_answers (w : Nat) (a : Offset) (s : State) : ∃ t, busRead w a s = .next t := by
  unfold busRead
  split <;> exact ⟨_, rfl⟩

theorem busWrite_answers (w : Nat) (a : Offset) (v : Word) (s : State) : ∃ t, busWrite w a v s = .next t := by
  unfold busWrite
  split_ifs <;> exact ⟨_, rfl⟩

theorem exec_decode_answers (r : BusReq) (s : State) : ∃ t, exec (decode r) s = .next t := by
  rw [exec_decode]
  split_ifs
  · exact ⟨_, rfl⟩
  · exact busWrite_answers _ _ _ s
  · exact busRead_answers _ _ s

/-! ### What a write can reach -/

/-- The register of an offset is the one R21 lists there. -/
theorem regAt_eq_iff {a : Offset} {r : Reg} (hr : r ≠ .reserved) : regAt a = r ↔ a.toNat = (regOffset r).toNat := by
  constructor
  · rintro rfl
    revert hr
    unfold regAt
    split
    case h_13 => exact fun h => absurd rfl h
    all_goals exact fun _ => ‹_›
  · intro h
    rw [BitVec.eq_of_toNat_eq h]
    cases r
    case reserved => exact absurd rfl hr
    all_goals rfl

/-- A legal write to a register is the 4-byte write at its offset (R68). -/
theorem request_of_register_write {r : BusReq} {reg : Reg} (hwe : r.we = true) (hl : LegalRequest r)
    (hr : region r.addr = .registers) (hreg : regAt r.addr = reg) (hne : reg ≠ .reserved) :
    r = ⟨true, 0b10#2, regOffset reg, r.wdata⟩ := by
  obtain ⟨we, size, addr, wdata⟩ := r
  obtain ⟨hsize, hlegal⟩ := hl
  rw [LegalAccess, if_pos (region_eq_registers_iff.mp hr)] at hlegal
  obtain ⟨hwidth, -⟩ := hlegal
  have size_eq : ∀ k : BitVec 2, 2 ^ k.toNat = 4 → k = 0b10#2 := by decide
  cases hwe
  cases size_eq size hwidth
  cases BitVec.eq_of_toNat_eq ((regAt_eq_iff hne).mp hreg)
  rfl

/-- Bytes that are all at or beyond the capacity are ignored (R72). -/
theorem Memory.writeBelow_beyond {cap i : Nat} {m : Memory} {bs : List Byte}
    (h : ∀ k, k < bs.length → cap ≤ i + k) : Memory.writeBelow cap m i bs = m := by
  induction bs generalizing i with
  | nil => rfl
  | cons b bs ih =>
    have first : ¬ i < cap := Nat.not_lt.mpr (h 0 (by simp))
    rw [Memory.writeBelow, if_neg first]
    refine ih fun k hk => ?_
    have := h (k + 1) (by simpa using hk)
    omega

/-- While BUSY = 1 a legal write that is not dropped has no effect but that of a write to STATUS (R236). -/
theorem performWrite_not_droppable {w : Nat} {a : Offset} {s : State} (v : Word) (hb : s.busy = true)
    (hd : ¬ (s.busy = true ∧ droppable s a w = true)) :
    performWrite w a v s = s
      ∨ (region a = .registers ∧ regAt a = .status ∧ performWrite w a v s = writeStatus v s) := by
  have hd : ¬ droppable s a w = true := fun h => hd ⟨hb, h⟩
  obtain heq | ⟨hr, hreg, -⟩ | ⟨hr, hreg, -⟩ | ⟨hr, hreg, -⟩ | hstatus | ⟨hr, heq⟩ | ⟨hr, heq⟩ :=
    performWrite_cases w a v s
  · exact .inl heq
  · exact absurd (by simp [droppable, hr, hreg]) hd
  · exact absurd (by simp [droppable, hr, hreg]) hd
  · exact absurd (by simp [droppable, hr, hreg]) hd
  · exact .inr hstatus
  · left
    have beyond : ∀ k, k < w → s.inCap ≤ inIndex a k := by simpa [droppable, hr, touchesBuffer] using hd
    rw [heq, Memory.writeBelow_beyond (by simpa [dataBytes, inIndex] using beyond)]
  · left
    have beyond : ∀ k, k < w → s.outCap ≤ outIndex a k := by simpa [droppable, hr, touchesBuffer] using hd
    rw [heq, Memory.writeBelow_beyond (by simpa [dataBytes, outIndex] using beyond)]

/-! ### A running command and the requests during it -/

/-- No request reaches BUSY, the snapshot, IN or IN_CAP while a command is running (R120, R236). -/
theorem exec_keeps_running {i : Instr} {s t : State} (hx : exec i s = .next t) (hb : s.busy = true) :
    t.busy = true ∧ t.snap = s.snap ∧ t.inBuf = s.inBuf ∧ t.inCap = s.inCap := by
  obtain ⟨w, a, -, rfl⟩ | rfl | ⟨-, rfl⟩ | ⟨hidle, -⟩ | ⟨w, a, v, -, hd, rfl⟩ := exec_cases hx
  · exact ⟨hb, rfl, rfl, rfl⟩
  · exact ⟨hb, rfl, rfl, rfl⟩
  · exact ⟨hb, rfl, rfl, rfl⟩
  · exact absurd hb (by simp [hidle])
  · obtain heq | ⟨-, -, heq⟩ := performWrite_not_droppable v hb hd
    · rw [heq]
      exact ⟨hb, rfl, rfl, rfl⟩
    · rw [heq]
      exact ⟨hb, rfl, rfl, rfl⟩

theorem decExec_ne_stopped (n : Nat) (syms : List Byte) (write : Bool) (why : Fault) :
    decExec n syms write ≠ .stopped why := by
  unfold decExec
  split
  · nofun
  · dsimp only
    split <;> nofun

/-- Over written input a command has a result (R115): only an unwritten element stops it (R232). -/
theorem engineExec_ne_stopped {cap : Nat} {snap : Snap} {inBuf : Memory} (hop : snap.op ≠ 0)
    (hwritten : Memory.firstUnwritten inBuf snap.elen.toNat = none) (why : Fault) :
    engineExec cap snap inBuf ≠ .stopped why := by
  have elements (op : BitVec 4) (n : Nat) : execElements op n snap.elen.toNat inBuf ≠ .stopped why := by
    unfold execElements
    rw [hwritten]
    dsimp only
    split_ifs
    · nofun
    · exact decExec_ne_stopped _ _ _ _
    · exact decExec_ne_stopped _ _ _ _
  unfold engineExec
  rw [if_neg hop]
  split_ifs
  case neg => exact elements _ _
  all_goals nofun

theorem completion_answers {s : State} (h : ∀ why, engineExec s.inCap s.snap s.inBuf ≠ .stopped why) :
    ∃ u, completion s = .next u := by
  unfold completion
  split
  case h_3 why hstop => exact absurd hstop (h why)
  all_goals exact ⟨_, rfl⟩

theorem completion_flags {s u : State} (h : completion s = .next u) : u.busy = false ∧ u.done = true := by
  obtain ⟨_, _, _, _, _, -, rfl⟩ | ⟨_, _, _, _, -, rfl⟩ := completion_cases h <;> exact ⟨rfl, rfl⟩

/-- Settles O42: the invariant gives the snapshot an accepted OP and ELEN = LEN, so the completion has a result. -/
theorem acceptedCommandsComplete : Obligations.AcceptedCommandsComplete := by
  intro s hinv hb
  constructor
  · intro hwritten
    obtain ⟨hop, -, helen⟩ := hinv.busy_snap hb
    have all : Memory.firstUnwritten s.inBuf s.snap.elen.toNat = none :=
      Memory.firstUnwritten_eq_none.mpr (helen ▸ hwritten)
    obtain ⟨u, hu⟩ := completion_answers (engineExec_ne_stopped hop all)
    exact ⟨u, (if_pos hb).trans hu, completion_flags hu⟩
  · intro r
    obtain ⟨t, ht⟩ := exec_decode_answers r s
    exact ⟨t, ht, exec_keeps_running ht hb⟩

/-! ### When BUSY changes -/

theorem startCommand_sets_busy {op : BitVec 4} {s : State} (hidle : s.busy = false)
    (hb : (startCommand op s).busy = true) : op ≠ 0 := by
  rintro rfl
  exact absurd hb (by simp [startCommand, hidle])

/-- A write that is performed keeps BUSY, but for the write to CMD (R27). -/
theorem performWrite_busy (w : Nat) (a : Offset) (v : Word) (s : State) :
    (performWrite w a v s).busy = s.busy
      ∨ (region a = .registers ∧ regAt a = .cmd ∧ performWrite w a v s = startCommand (v.extractLsb' 0 4) s) := by
  obtain heq | ⟨-, -, heq⟩ | ⟨-, -, heq⟩ | ⟨hr, hreg, heq⟩ | ⟨-, -, heq⟩ | ⟨-, heq⟩ | ⟨-, heq⟩ :=
    performWrite_cases w a v s
  case inr.inr.inr.inl => exact .inr ⟨hr, hreg, heq⟩
  all_goals exact .inl (by simp [heq])

/-- The write that reaches CMD is the command of its word (R104). -/
theorem opOf_decode_of_cmd {r : BusReq} (hwe : r.we = true) (hl : LegalRequest r) (hr : region r.addr = .registers)
    (hcmd : regAt r.addr = .cmd) : opOf (decode r) = some (r.wdata.extractLsb' 0 4) := by
  rw [request_of_register_write hwe hl hr hcmd (by decide)]
  exact opOf_decodeCmd r.wdata

/-- A request that sets BUSY is an accepted command (R27, R112). -/
theorem exec_decode_sets_busy {r : BusReq} {s t : State} (hx : exec (decode r) s = .next t) (hidle : s.busy = false)
    (hb : t.busy = true) : ∃ op, opOf (decode r) = some op ∧ op ≠ 0 := by
  obtain ⟨_, _, rfl⟩ | ⟨-, -, hbusy, -⟩ | ⟨hwe, hl, -, rfl⟩ := exec_decode_cases hx
  · exact absurd hb (by simp [hidle])
  · exact absurd hbusy (by simp [hidle])
  · rw [acknowledge_busy] at hb
    obtain heq | ⟨hr, hcmd, heq⟩ := performWrite_busy (2 ^ r.size.toNat) r.addr r.wdata s <;> rw [heq] at hb
    · exact absurd hb (by simp [hidle])
    · exact ⟨_, opOf_decode_of_cmd hwe hl hr hcmd, startCommand_sets_busy hidle hb⟩

/-- After the engine's turn BUSY is 0, and WDROP is as it was (R116). -/
theorem engineTurn_flags {s t : State} (hx : engineTurn s = .next t) : t.busy = false ∧ t.wdrop = s.wdrop := by
  obtain ⟨hidle, rfl⟩ | ⟨-, hc⟩ := engineTurn_cases hx
  · exact ⟨hidle, rfl⟩
  · obtain ⟨_, _, _, _, _, -, rfl⟩ | ⟨_, _, _, _, -, rfl⟩ := completion_cases hc <;> simp

/-- A turn of the polling loop is a read, which keeps BUSY and WDROP (R76). -/
theorem waitTurn_flags {late : Nat} {s t : State} (hx : waitTurn late s = .next t) :
    t.busy = s.busy ∧ t.wdrop = s.wdrop := by
  rw [waitTurn_next] at hx
  cases hx
  exact ⟨rfl, rfl⟩

/-- Settles O46, by the five kinds of step: only a command sets BUSY, and no request and no turn of a `wait` loop
clears it. -/
theorem busyChangesOnlyAtAcceptCompletionAndReset : Obligations.BusyChangesOnlyAtAcceptCompletionAndReset := by
  intro s t hstep
  obtain ⟨hin, hx⟩ | ⟨r, rest, hin, hx⟩ | ⟨rest, hin, hx⟩ | ⟨late, rest, hin, hx⟩ | ⟨rest, hin, rfl⟩ :=
    step_cases hstep
  case inl =>
    obtain ⟨idle, -⟩ := engineTurn_flags hx
    exact ⟨fun _ hb => by simp [idle] at hb, fun _ _ => .inl ⟨hin, hx⟩⟩
  case inr.inl =>
    refine ⟨fun hidle hb => ?_, fun hb hidle => ?_⟩
    · obtain ⟨op, hop, hne⟩ := exec_decode_sets_busy hx hidle hb
      exact ⟨r, rest, op, hin, hop, hne⟩
    · obtain ⟨running, -⟩ := exec_keeps_running hx hb
      simp [running] at hidle
  case inr.inr.inl =>
    obtain ⟨idle, -⟩ := engineTurn_flags hx
    exact ⟨fun _ hb => by simp [idle] at hb, fun _ _ => .inr (.inl ⟨rest, hin, hx⟩)⟩
  case inr.inr.inr.inl =>
    obtain ⟨kept, -⟩ := waitTurn_flags hx
    exact ⟨fun hidle hb => by simp [kept, hidle] at hb, fun hb hidle => by simp [kept, hb] at hidle⟩
  case inr.inr.inr.inr => exact ⟨fun _ hb => by simp at hb, fun _ _ => .inr (.inr ⟨rest, hin⟩)⟩

/-! ### Which writes are droppable -/

theorem droppable_register_iff {s : State} {w : Nat} {a : Offset} (hr : region a = .registers) :
    droppable s a w = true ↔ a.toNat = 0x8 ∨ a.toNat = 0xC ∨ a.toNat = 0x10 := by
  have hctrl : regAt a = .ctrl ↔ a.toNat = 0x8 := regAt_eq_iff (by decide)
  have hlen : regAt a = .len ↔ a.toNat = 0xC := regAt_eq_iff (by decide)
  have hcmd : regAt a = .cmd ↔ a.toNat = 0x10 := regAt_eq_iff (by decide)
  simp [droppable, hr, hctrl, hlen, hcmd, or_assoc]

/-- An access that starts in one window reaches no byte of the other, since IN_CAP fits in the IN window and the access
is aligned (R61, R65). -/
theorem touchesBuffer_iff {s : State} {w : Nat} {a : Offset} (hw : AccessWidth w) (hl : LegalAccess w a)
    (hcap : s.inCap ≤ 65536) : touchesBuffer s a w = true ↔ TouchesBuffer s w a := by
  have aligned : a.toNat % w = 0 := by
    unfold LegalAccess at hl
    split at hl
    · obtain ⟨rfl, aligned⟩ := hl
      exact aligned
    · exact hl
  have inside {k : Nat} (hk : k % 4 = 0) (h : a.toNat < k) (t : Nat) (ht : t < w) : a.toNat + t < k := by
    obtain rfl | rfl | rfl := hw <;> omega
  have unreached (h : ∀ t, t < w → a.toNat + t < 0x10000 ∨ (0x20000 ≤ a.toNat + t ∧ a.toNat + t < 0x80000)) :
      ¬ TouchesBuffer s w a := by
    rintro ⟨t, ht, hin | hout⟩ <;> have := h t ht <;> omega
  unfold touchesBuffer region
  split_ifs with registers low window high
  · exact iff_of_false nofun (unreached fun t ht => .inl (inside (by decide) (by omega) t ht))
  · exact iff_of_false nofun (unreached fun t ht => .inl (inside (by decide) low t ht))
  · simp only [List.any_eq_true, List.mem_range, decide_eq_true_eq]
    refine exists_congr fun t => and_congr_right fun ht => ?_
    have below := inside (by decide) window t ht
    unfold inIndex inBase
    omega
  · exact iff_of_false nofun (unreached fun t ht => .inr ⟨by omega, inside (by decide) high t ht⟩)
  · simp only [List.any_eq_true, List.mem_range, decide_eq_true_eq]
    refine exists_congr fun t => and_congr_right fun ht => ?_
    unfold outIndex outBase State.outCap
    omega

/-- The model's test is R236's list: CTRL, LEN, CMD, or a byte of IN or OUT within capacity. -/
theorem droppable_iff {s : State} {w : Nat} {a : Offset} (hw : AccessWidth w) (hl : LegalAccess w a)
    (hcap : s.inCap ≤ 65536) : droppable s a w = true ↔ Droppable s w a := by
  rw [Droppable, ← touchesBuffer_iff hw hl hcap]
  by_cases hr : region a = .registers
  · have untouched : touchesBuffer s a w = false := by rw [touchesBuffer, hr]
    simp [droppable_register_iff hr, untouched]
  · have outside : ¬ a.toNat < 0x1000 := fun h => hr (region_eq_registers_iff.mpr h)
    have window : droppable s a w = touchesBuffer s a w := by
      unfold droppable
      split
      · contradiction
      · rfl
    have other (k : Nat) (hk : k < 0x1000) : a.toNat ≠ k := by omega
    simp [window, other]

/-! ### When WDROP changes -/

theorem accessWidth_of_legalRequest {r : BusReq} (h : LegalRequest r) : AccessWidth (2 ^ r.size.toNat) := by
  obtain ⟨hsize, -⟩ := h
  have widths : ∀ k : BitVec 2, k ≠ 0b11#2 → 2 ^ k.toNat = 1 ∨ 2 ^ k.toNat = 2 ∨ 2 ^ k.toNat = 4 := by decide
  exact widths r.size hsize

theorem startCommand_wdrop (op : BitVec 4) (s : State) : (startCommand op s).wdrop = s.wdrop := by
  obtain ⟨-, heq⟩ | ⟨-, heq⟩ := startCommand_cases op s <;> rw [heq]
  rfl

/-- A write that is performed keeps WDROP, but for the write to STATUS (R31). -/
theorem performWrite_wdrop (w : Nat) (a : Offset) (v : Word) (s : State) :
    (performWrite w a v s).wdrop = s.wdrop
      ∨ (region a = .registers ∧ regAt a = .status ∧ (performWrite w a v s).wdrop = (s.wdrop && !v.getLsbD 8)) := by
  obtain heq | ⟨-, -, heq⟩ | ⟨-, -, heq⟩ | ⟨-, -, heq⟩ | ⟨hr, hreg, heq⟩ | ⟨-, heq⟩ | ⟨-, heq⟩ :=
    performWrite_cases w a v s <;> rw [heq]
  case inr.inr.inr.inl => exact .inl (startCommand_wdrop _ s)
  case inr.inr.inr.inr.inl => exact .inr ⟨hr, hreg, rfl⟩
  all_goals exact .inl rfl

/-- A request sets WDROP where it is a dropped write, and clears it where it writes 1 to bit 8 of STATUS (R31). -/
theorem exec_decode_wdrop {r : BusReq} {s t : State} (hx : exec (decode r) s = .next t) :
    (s.wdrop = false → t.wdrop = true →
      s.busy = true ∧ r.we = true ∧ LegalRequest r ∧ droppable s r.addr (2 ^ r.size.toNat) = true)
    ∧ (s.wdrop = true → t.wdrop = false → r = ⟨true, 0b10#2, 0x00014#20, r.wdata⟩ ∧ r.wdata.getLsbD 8 = true) := by
  obtain ⟨_, _, rfl⟩ | ⟨hwe, hl, hb, hd, rfl⟩ | ⟨hwe, hl, -, rfl⟩ := exec_decode_cases hx
  · exact ⟨fun h0 h1 => by simp [h0] at h1, fun h1 h0 => by simp [h1] at h0⟩
  · exact ⟨fun _ _ => ⟨hb, hwe, hl, hd⟩, nofun⟩
  · rw [acknowledge_wdrop]
    obtain heq | ⟨hr, hstatus, heq⟩ := performWrite_wdrop (2 ^ r.size.toNat) r.addr r.wdata s <;> rw [heq]
    · exact ⟨fun h0 h1 => by simp [h0] at h1, fun h1 h0 => by simp [h1] at h0⟩
    · refine ⟨fun h0 h1 => by simp [h0] at h1, fun h1 h0 => ⟨?_, by simpa [h1] using h0⟩⟩
      exact request_of_register_write hwe hl hr hstatus (by decide)

/-- A dropped write sets WDROP (R236). -/
theorem exec_decode_dropped {r : BusReq} {s t : State} (hx : exec (decode r) s = .next t) (hb : s.busy = true)
    (hwe : r.we = true) (hl : LegalRequest r) (hd : droppable s r.addr (2 ^ r.size.toNat) = true) :
    t.wdrop = true := by
  obtain ⟨hsize, hlegal⟩ := hl
  rw [exec_decode, if_neg hsize, if_pos hwe, busWrite, if_pos (legalAlign_iff.mpr hlegal), hb, hd] at hx
  cases hx
  rfl

/-- Settles O47, by the five kinds of step: only a request sets WDROP, and only a request or RST clears it. -/
theorem wdropChangesOnlyAtDropsStatusWritesAndReset : Obligations.WdropChangesOnlyAtDropsStatusWritesAndReset := by
  intro s t hcap hstep
  obtain ⟨hin, hx⟩ | ⟨r, rest, hin, hx⟩ | ⟨rest, hin, hx⟩ | ⟨late, rest, hin, hx⟩ | ⟨rest, hin, rfl⟩ :=
    step_cases hstep
  case inr.inl =>
    have hdrop (hl : LegalRequest r) :
        droppable { s with inputs := rest } r.addr (2 ^ r.size.toNat) = true ↔ Droppable s (2 ^ r.size.toNat) r.addr :=
      droppable_iff (accessWidth_of_legalRequest hl) hl.2 hcap
    obtain ⟨sets, clears⟩ := exec_decode_wdrop hx
    refine ⟨fun h0 h1 => ?_, fun r' rest' hb hin' hwe hl hd => ?_, fun h1 h0 => ?_⟩
    · obtain ⟨hb, hwe, hl, hd⟩ := sets h0 h1
      exact ⟨hb, r, rest, hin, hwe, hl, (hdrop hl).mp hd⟩
    · cases hin.symm.trans hin'
      exact exec_decode_dropped hx hb hwe hl ((hdrop hl).mpr hd)
    · obtain ⟨hr, h8⟩ := clears h1 h0
      exact .inl ⟨r.wdata, rest, hr ▸ hin, h8⟩
  case inl | inr.inr.inl =>
    obtain ⟨-, kept⟩ := engineTurn_flags hx
    exact ⟨fun h0 h1 => by simp [kept, h0] at h1, fun _ _ _ hin' => by simp [hin] at hin',
      fun h1 h0 => by simp [kept, h1] at h0⟩
  case inr.inr.inr.inl =>
    obtain ⟨-, kept⟩ := waitTurn_flags hx
    exact ⟨fun h0 h1 => by simp [kept, h0] at h1, fun _ _ _ hin' => by simp [hin] at hin',
      fun h1 h0 => by simp [kept, h1] at h0⟩
  case inr.inr.inr.inr =>
    exact ⟨fun _ h1 => by simp at h1, fun _ _ _ hin' => by simp [hin] at hin', fun _ _ => .inr ⟨rest, hin⟩⟩

end Sys2Proof.Machine

/-! Proofs of the family 20_memory: the answers of the host port, the windows byte by byte, what a completion reads and
writes, and the safe runs of legal programs. -/

namespace Sys2Proof.Machine

open Sys2Proof.Rules

/-! ### The answers of the host port -/

theorem exec_readOf {w : Nat} (hw : AccessWidth w) (a : Offset) (s : State) :
    exec (readOf w a) s = busRead w a s := by
  obtain rfl | rfl | rfl := hw <;> rfl

theorem exec_writeOf {w : Nat} (hw : AccessWidth w) (a : Offset) (v : Word) (s : State) :
    exec (writeOf w a v) s = busWrite w a v s := by
  obtain rfl | rfl | rfl := hw <;> rfl

section
variable {w : Nat} {a : Offset} (s : State)

theorem busRead_legal (hl : LegalAccess w a) :
    busRead w a s = .next (answered (readData w a s) (s.draws + w) s) :=
  if_pos (legalAlign_iff.mpr hl)

theorem busRead_illegal (hl : ¬ LegalAccess w a) : busRead w a s = .next (refusedByPort s) :=
  if_neg (legalAlign_iff.not.mpr hl)

theorem busWrite_illegal (hl : ¬ LegalAccess w a) (v : Word) : busWrite w a v s = .next (refusedByPort s) :=
  if_neg (legalAlign_iff.not.mpr hl)

/-- A legal write is dropped exactly where BUSY = 1 and its target is droppable (R67, R236). -/
theorem busWrite_legal (hl : LegalAccess w a) (v : Word) :
    busWrite w a v s =
      .next (acknowledge (if s.busy && droppable s a w then setDrop s else performWrite w a v s)) := by
  rw [busWrite, if_pos (legalAlign_iff.mpr hl)]
  split <;> rfl

theorem busWrite_performed (hl : LegalAccess w a) (hd : (s.busy && droppable s a w) = false) (v : Word) :
    busWrite w a v s = .next (acknowledge (performWrite w a v s)) := by
  rw [busWrite_legal s hl, hd]
  rfl

theorem busWrite_dropped (hl : LegalAccess w a) (hd : (s.busy && droppable s a w) = true) (v : Word) :
    busWrite w a v s = .next (acknowledge (setDrop s)) := by
  rw [busWrite_legal s hl, hd]
  rfl

end

theorem commandRequest_answers (op : BitVec 4) (s : State) : ∃ t, commandRequest op s = .next t := by
  unfold commandRequest
  split <;> exact ⟨_, rfl⟩

theorem exec_answers (i : Instr) (s : State) : ∃ t, exec i s = .next t := by
  cases i
  case rd8 | rd16 | rd32 => exact busRead_answers _ _ s
  case wr8 | wr16 | wr32 => exact busWrite_answers _ _ _ s
  case illegalBus3 | illegalBus7 => exact ⟨_, rfl⟩
  all_goals exact commandRequest_answers _ s

/-- Starting a command reaches neither the events to come, nor IN_CAP, nor IN. -/
theorem startCommand_port (op : BitVec 4) (s : State) :
    (startCommand op s).inputs = s.inputs ∧ (startCommand op s).inCap = s.inCap ∧
      (startCommand op s).inBuf = s.inBuf := by
  obtain ⟨-, heq⟩ | ⟨-, heq⟩ := startCommand_cases op s <;> rw [heq] <;> exact ⟨rfl, rfl, rfl⟩

theorem performWrite_port (w : Nat) (a : Offset) (v : Word) (s : State) :
    (performWrite w a v s).inputs = s.inputs ∧ (performWrite w a v s).inCap = s.inCap := by
  obtain heq | ⟨-, -, heq⟩ | ⟨-, -, heq⟩ | ⟨-, -, heq⟩ | ⟨-, -, heq⟩ | ⟨-, heq⟩ | ⟨-, heq⟩ :=
    performWrite_cases w a v s <;> rw [heq]
  case inr.inr.inr.inl =>
    obtain ⟨hinputs, hcap, -⟩ := startCommand_port (v.extractLsb' 0 4) s
    exact ⟨hinputs, hcap⟩
  all_goals exact ⟨rfl, rfl⟩

/-- No request reaches the events to come or IN_CAP. -/
theorem exec_port {i : Instr} {s t : State} (hx : exec i s = .next t) : t.inputs = s.inputs ∧ t.inCap = s.inCap := by
  obtain ⟨w, a, -, rfl⟩ | rfl | ⟨-, rfl⟩ | ⟨-, op, rfl⟩ | ⟨w, a, v, -, -, rfl⟩ := exec_cases hx
  case inr.inr.inr.inl =>
    obtain ⟨hinputs, hcap, -⟩ := startCommand_port op s
    exact ⟨hinputs, hcap⟩
  case inr.inr.inr.inr => exact performWrite_port w a v s
  all_goals exact ⟨rfl, rfl⟩

/-- Settles O8: it is the request's arm of `step`. -/
theorem stepRunsTheDecodedRequest : Obligations.StepRunsTheDecodedRequest := by
  intro s r rest h
  rw [step, h]

/-- Settles O10: every arm of `exec` answers, and no request reaches `inputs` or `inCap`. -/
theorem everyRequestIsAnswered : Obligations.EveryRequestIsAnswered := by
  intro i s
  obtain ⟨t, hx⟩ := exec_answers i s
  exact ⟨t, hx, exec_port hx⟩

/-- A legal request is answered with ERR = 0 (R66, R67). -/
theorem exec_decode_legal {r : BusReq} (hl : LegalRequest r) (s : State) :
    ∃ t, exec (decode r) s = .next t ∧ t.resp.err = false := by
  obtain ⟨hsize, hl⟩ := hl
  rw [exec_decode, if_neg hsize]
  split
  · exact ⟨_, busWrite_legal s hl r.wdata, rfl⟩
  · exact ⟨_, busRead_legal s hl, rfl⟩

theorem exec_decode_illegal {r : BusReq} (hl : ¬ LegalRequest r) (s : State) :
    exec (decode r) s = .next (refusedByPort s) := by
  rw [exec_decode]
  split_ifs with hsize
  · rfl
  · exact busWrite_illegal s (fun h => hl ⟨hsize, h⟩) r.wdata
  · exact busRead_illegal s (fun h => hl ⟨hsize, h⟩)

/-- Settles O11, by the legality of the request. -/
theorem busErrorsAreExactlyTheIllegalRequests : Obligations.BusErrorsAreExactlyTheIllegalRequests :=
  ⟨fun _ s hl => exec_decode_illegal hl s, fun _ s hl => exec_decode_legal hl s, fun _ _ _ => ⟨rfl, rfl⟩⟩

/-- Settles O15: a read is `answered` or `refusedByPort`, which change the response and the draws alone. -/
theorem readsChangeOnlyTheResponse : Obligations.ReadsChangeOnlyTheResponse := by
  intro s w a hw
  rw [exec_readOf hw]
  by_cases hl : LegalAccess w a
  · exact ⟨_, _, _, busRead_legal s hl⟩
  · exact ⟨0, true, s.draws, busRead_illegal s hl⟩

/-! ### Regions -/

/-- A legal access is aligned at its width, in every region (R68, R69). -/
theorem aligned_of_legalAccess {w : Nat} {a : Offset} (hl : LegalAccess w a) : a.toNat % w = 0 := by
  unfold LegalAccess at hl
  split at hl
  · obtain ⟨rfl, aligned⟩ := hl
    exact aligned
  · exact hl

theorem legalAccess_of_aligned {w : Nat} {a : Offset} (h : 0x1000 ≤ a.toNat) (aligned : a.toNat % w = 0) :
    LegalAccess w a := by
  rwa [LegalAccess, if_neg (by omega)]

/-- An aligned access does not cross a multiple of 4, and every region's bound is one. -/
theorem access_lt_iff {w t n k : Nat} (hw : AccessWidth w) (aligned : n % w = 0) (ht : t < w) (hk : k % 4 = 0) :
    n + t < k ↔ n < k := by
  obtain rfl | rfl | rfl := hw <;> omega

theorem region_eq_inWindow_iff {a : Offset} : region a = .inWindow ↔ 0x10000 ≤ a.toNat ∧ a.toNat < 0x20000 := by
  unfold region
  split_ifs <;> simp <;> omega

theorem region_eq_outWindow_iff {a : Offset} : region a = .outWindow ↔ 0x80000 ≤ a.toNat := by
  unfold region
  split_ifs <;> simp <;> omega

theorem region_eq_unmapped_iff {a : Offset} :
    region a = .unmapped ↔ (0x1000 ≤ a.toNat ∧ a.toNat < 0x10000) ∨ (0x20000 ≤ a.toNat ∧ a.toNat < 0x80000) := by
  unfold region
  split_ifs <;> simp <;> omega

/-- Settles O12: every bound of the address map, and the end of the aperture, is a multiple of 4. -/
theorem legalAccessStaysInItsRegion : Obligations.LegalAccessStaysInItsRegion := by
  intro w a t hw hl ht
  have same {k : Nat} (hk : k % 4 = 0) : a.toNat + t < k ↔ a.toNat < k :=
    access_lt_iff hw (aligned_of_legalAccess hl) ht hk
  have inside : a.toNat + t < 2 ^ 20 := (same (by decide)).mpr a.isLt
  have offset : (a + BitVec.ofNat 20 t).toNat = a.toNat + t := by
    rw [BitVec.toNat_add, BitVec.toNat_ofNat, Nat.add_mod_mod, Nat.mod_eq_of_lt inside]
  refine ⟨inside, ?_⟩
  simp only [region, offset, same]

/-! ### Offsets that read 0 and ignore writes -/

theorem regAt_reserved {a : Offset} (h : 0x30 ≤ a.toNat) : regAt a = .reserved := by
  unfold regAt
  split
  case h_13 => rfl
  all_goals omega

/-- A reserved or unmapped offset reads 0, keeps every write from the state, and is never droppable (R39, R73). -/
theorem inert_offset {a : Offset}
    (h : (0x30 ≤ a.toNat ∧ a.toNat < 0x10000) ∨ (0x20000 ≤ a.toNat ∧ a.toNat < 0x80000))
    (w : Nat) (v : Word) (s : State) :
    readData w a s = 0 ∧ performWrite w a v s = s ∧ droppable s a w = false := by
  by_cases hr : a.toNat < 0x1000
  · have register := region_eq_registers_iff.mpr hr
    have reserved : regAt a = .reserved := regAt_reserved (by omega)
    rw [readData, performWrite, droppable, register, reserved]
    exact ⟨rfl, rfl, rfl⟩
  · have unmapped : region a = .unmapped := region_eq_unmapped_iff.mpr (by omega)
    rw [readData, performWrite, droppable, touchesBuffer, unmapped]
    exact ⟨rfl, rfl, rfl⟩

/-- Settles O18, by `inert_offset`. -/
theorem unmappedAndReservedOffsetsReadZeroAndIgnoreWrites :
    Obligations.UnmappedAndReservedOffsetsReadZeroAndIgnoreWrites := by
  intro s w a v hw hl ha
  obtain ⟨hread, hwrite, hdrop⟩ := inert_offset ha w v s
  rw [exec_readOf hw, exec_writeOf hw]
  constructor
  · exact ⟨_, by rw [busRead_legal s hl, hread]; rfl⟩
  · exact ⟨_, _, by rw [busWrite_performed s hl (by simp [hdrop]), hwrite, acknowledge_eq_answered]⟩

/-! ### Port data and its bytes -/

/-- Bit `i` of assembled bytes is bit `i mod 8` of byte `i div 8` (R63). -/
theorem getLsbD_assemble (bs : List Byte) (i : Nat) (hi : i < 32) :
    (assemble bs).getLsbD i = (bs[i / 8]?.getD 0).getLsbD (i % 8) := by
  induction bs generalizing i with
  | nil => simp [assemble]
  | cons b bs ih =>
    rw [assemble, BitVec.getLsbD_or, BitVec.getLsbD_shiftLeft, BitVec.getLsbD_setWidth]
    by_cases h8 : i < 8
    · simp [h8, hi, Nat.mod_eq_of_lt h8, Nat.div_eq_of_lt h8]
    · have next : i / 8 = (i - 8) / 8 + 1 := by omega
      have bit : i % 8 = (i - 8) % 8 := by omega
      have high : b.getLsbD i = false := BitVec.getLsbD_of_ge b i (by omega)
      rw [next, bit, List.getElem?_cons_succ, ← ih (i - 8) (by omega)]
      simp [h8, hi, high]

/-- Byte `k` of assembled bytes is the byte of the `k`-th offset (R63, R70). -/
theorem byteOf_assemble (bs : List Byte) {k : Nat} (hk : k < 4) : byteOf (assemble bs) k = bs[k]?.getD 0 := by
  ext j hj
  have byte : (8 * k + j) / 8 = k := by omega
  have bit : (8 * k + j) % 8 = j := by omega
  simp only [byteOf, BitVec.getElem_extractLsb', getLsbD_assemble bs (8 * k + j) (by omega), byte, bit]
  exact BitVec.getLsbD_eq_getElem hj

/-- The bits above the assembled bytes are 0 (R70). -/
theorem assemble_lt {bs : List Byte} : (assemble bs).toNat < 2 ^ (8 * bs.length) := by
  refine Nat.lt_pow_two_of_testBit _ fun i hi => ?_
  show (assemble bs).getLsbD i = false
  by_cases h : i < 32
  · rw [getLsbD_assemble bs i h, List.getElem?_eq_none (by omega)]
    simp
  · exact BitVec.getLsbD_of_ge _ i (by omega)

/-- The bytes of `w` consecutive offsets are the bytes of the word read, and the bits above them are 0. -/
theorem assemble_range {w : Nat} (hw : AccessWidth w) (f : Nat → Byte) :
    (∀ k, k < w → byteOf (assemble ((List.range w).map f)) k = f k)
      ∧ (assemble ((List.range w).map f)).toNat < 2 ^ (8 * w) := by
  constructor
  · intro k hk
    have four : k < 4 := by obtain rfl | rfl | rfl := hw <;> omega
    rw [byteOf_assemble _ four]
    simp [hk]
  · simpa using assemble_lt (bs := (List.range w).map f)

/-- A word is given back by the bytes it is written as, but for the bits above them (R63). -/
theorem assemble_dataBytes (w : Nat) (v : Word) : (assemble (dataBytes w v)).toNat = v.toNat % 2 ^ (8 * w) := by
  refine Nat.eq_of_testBit_eq fun i => ?_
  rw [Nat.testBit_mod_two_pow]
  show (assemble (dataBytes w v)).getLsbD i = (decide (i < 8 * w) && v.getLsbD i)
  by_cases hi : i < 32
  · rw [getLsbD_assemble _ i hi]
    by_cases h : i < 8 * w
    · have byte : i / 8 < w := by omega
      have bit : 8 * (i / 8) + i % 8 = i := by omega
      have small : i % 8 < 8 := by omega
      simp [dataBytes, byteOf, byte, h, bit, small]
    · have beyond : ¬ i / 8 < w := by omega
      simp [dataBytes, beyond, h]
  · simp [BitVec.getLsbD_of_ge _ i (Nat.le_of_not_lt hi)]

/-! ### Reads of the windows -/

theorem readData_inWindow {a : Offset} (h : region a = .inWindow) (w : Nat) (s : State) :
    readData w a s = assemble ((List.range w).map fun t => inReadByte s t (inIndex a t)) := by
  rw [readData, h]

theorem readData_outWindow {a : Offset} (h : region a = .outWindow) (w : Nat) (s : State) :
    readData w a s = assemble ((List.range w).map fun t => outReadByte s t (outIndex a t)) := by
  rw [readData, h]

theorem inReadByte_written {s : State} {i : Nat} {b : Byte} (hi : i < s.inCap)
    (hb : Memory.read? s.inBuf i = some b) (t : Nat) : inReadByte s t i = b := by
  rw [inReadByte, if_pos hi, hb]
  rfl

theorem inReadByte_beyond {s : State} {i : Nat} (hi : s.inCap ≤ i) (t : Nat) : inReadByte s t i = 0 :=
  if_neg (Nat.not_lt.mpr hi)

theorem outReadByte_written {s : State} {i : Nat} {b : Byte} (hidle : s.busy = false) (hi : i < s.outCap)
    (hb : Memory.read? s.outBuf i = some b) (t : Nat) : outReadByte s t i = b := by
  rw [outReadByte, if_pos hi, hidle, hb]
  rfl

theorem outReadByte_beyond {s : State} {i : Nat} (hi : s.outCap ≤ i) (t : Nat) : outReadByte s t i = 0 :=
  if_neg (Nat.not_lt.mpr hi)

/-- Settles O16: byte `k` of the data is `inReadByte` at the `k`-th index. -/
theorem inWindowReadsReturnTheirBytes : Obligations.InWindowReadsReturnTheirBytes := by
  intro s w a hw hlow hhigh aligned
  have hl : LegalAccess w a := legalAccess_of_aligned (by omega) aligned
  obtain ⟨hbyte, hlt⟩ := assemble_range hw fun t => inReadByte s t (inIndex a t)
  rw [exec_readOf hw, busRead_legal s hl, readData_inWindow (region_eq_inWindow_iff.mpr ⟨hlow, hhigh⟩)]
  refine ⟨_, rfl, rfl, fun k hk hi b hb => ?_, fun k hk hi => ?_, hlt⟩
  · exact (hbyte k hk).trans (inReadByte_written hi hb k)
  · exact (hbyte k hk).trans (inReadByte_beyond hi k)

/-- Settles O17: byte `k` of the data is `outReadByte` at the `k`-th index. -/
theorem outWindowReadsReturnTheirBytes : Obligations.OutWindowReadsReturnTheirBytes := by
  intro s w a hw hlow aligned
  have hl : LegalAccess w a := legalAccess_of_aligned (by omega) aligned
  obtain ⟨hbyte, hlt⟩ := assemble_range hw fun t => outReadByte s t (outIndex a t)
  rw [exec_readOf hw, busRead_legal s hl, readData_outWindow (region_eq_outWindow_iff.mpr hlow)]
  refine ⟨_, rfl, rfl, rfl, fun hidle k hk hi b hb => ?_, fun k hk hi => ?_, hlt⟩
  · exact (hbyte k hk).trans (outReadByte_written hidle hi hb k)
  · exact (hbyte k hk).trans (outReadByte_beyond hi k)

/-! ### Writes to the windows -/

theorem performWrite_inWindow {a : Offset} (h : region a = .inWindow) (w : Nat) (v : Word) (s : State) :
    performWrite w a v s =
      { s with inBuf := Memory.writeBelow s.inCap s.inBuf (inIndex a 0) (dataBytes w v) } := by
  rw [performWrite, h]

theorem performWrite_outWindow {a : Offset} (h : region a = .outWindow) (w : Nat) (v : Word) (s : State) :
    performWrite w a v s =
      { s with outBuf := Memory.writeBelow s.outCap s.outBuf (outIndex a 0) (dataBytes w v) } := by
  rw [performWrite, h]

theorem getElem?_dataBytes {w k : Nat} (v : Word) (hk : k < w) : (dataBytes w v)[k]? = some (byteOf v k) := by
  simp [dataBytes, hk]

/-- A write of `w` bytes at offset `n` of the window that begins at `base` stores byte `k` of the data at the `k`-th
offset where it is within capacity (R67, R72). -/
theorem read?_windowWrite (cap : Nat) (m : Memory) {base n : Nat} (hn : base ≤ n) (w : Nat) (v : Word) (i : Nat) :
    Memory.read? (Memory.writeBelow cap m (n - base + 0) (dataBytes w v)) i =
      if base + i < n ∨ n + w ≤ base + i ∨ cap ≤ i then Memory.read? m i
      else some (v.extractLsb' (8 * (base + i - n)) 8) := by
  rw [Memory.read?_writeBelow]
  have length : (dataBytes w v).length = w := by simp [dataBytes]
  split_ifs with stored outside outside
  · omega
  · have index : i - (n - base + 0) = base + i - n := by omega
    rw [index, getElem?_dataBytes v (by omega)]
    rfl
  · rfl
  · omega

/-- Settles O21: the write is `Memory.writeBelow` in its window's buffer, read back by `read?_windowWrite`. -/
theorem windowWritesStoreTheirBytes : Obligations.WindowWritesStoreTheirBytes := by
  intro s w a v hw aligned hidle
  rw [exec_writeOf hw]
  refine ⟨fun ⟨hlow, hhigh⟩ => ?_, fun hlow => ?_⟩
  · have hl : LegalAccess w a := legalAccess_of_aligned (by omega) aligned
    rw [busWrite_performed s hl (by simp [hidle]), performWrite_inWindow (region_eq_inWindow_iff.mpr ⟨hlow, hhigh⟩)]
    exact ⟨_, _, _, rfl, read?_windowWrite s.inCap s.inBuf hlow w v⟩
  · have hl : LegalAccess w a := legalAccess_of_aligned (by omega) aligned
    rw [busWrite_performed s hl (by simp [hidle]), performWrite_outWindow (region_eq_outWindow_iff.mpr hlow)]
    exact ⟨_, _, _, rfl, read?_windowWrite s.outCap s.outBuf hlow w v⟩

/-- The `k`-th offset holds byte `k` of the data just written, where it is within capacity. -/
theorem read?_windowWrite_offset {cap : Nat} (m : Memory) {base n w k : Nat} (hn : base ≤ n) (hk : k < w)
    (hcap : n - base + k < cap) (v : Word) :
    Memory.read? (Memory.writeBelow cap m (n - base + 0) (dataBytes w v)) (n - base + k) = some (byteOf v k) := by
  have index : base + (n - base + k) - n = k := by omega
  rw [read?_windowWrite cap m hn, if_neg (by omega), index]
  rfl

/-- Just after a write within capacity the bytes that a read assembles are those of the data written (R71). -/
theorem readData_performWrite {s : State} {w : Nat} {a : Offset} (v : Word) (hidle : s.busy = false)
    (h : (0x10000 ≤ a.toNat ∧ a.toNat < 0x20000 ∧ a.toNat + w ≤ 0x10000 + s.inCap)
      ∨ (0x80000 ≤ a.toNat ∧ a.toNat + w ≤ 0x80000 + 8 * s.inCap)) :
    readData w a (acknowledge (performWrite w a v s)) = assemble (dataBytes w v) := by
  obtain ⟨hlow, hhigh, hcap⟩ | ⟨hlow, hcap⟩ := h
  · have hr := region_eq_inWindow_iff.mpr ⟨hlow, hhigh⟩
    rw [readData_inWindow hr, performWrite_inWindow hr]
    refine congrArg assemble (List.map_congr_left fun k hk => ?_)
    have hk : k < w := List.mem_range.mp hk
    have inside : inIndex a k < s.inCap := by unfold inIndex inBase; omega
    refine inReadByte_written ?_ ?_ k
    · exact inside
    · exact read?_windowWrite_offset s.inBuf hlow hk inside v
  · have hr := region_eq_outWindow_iff.mpr hlow
    rw [readData_outWindow hr, performWrite_outWindow hr]
    refine congrArg assemble (List.map_congr_left fun k hk => ?_)
    have hk : k < w := List.mem_range.mp hk
    have inside : outIndex a k < s.outCap := by unfold outIndex outBase State.outCap; omega
    refine outReadByte_written ?_ ?_ ?_ k
    · exact hidle
    · exact inside
    · exact read?_windowWrite_offset s.outBuf hlow hk inside v

/-- Settles O22: the read assembles the bytes that the write stored. -/
theorem readAfterWriteReturnsTheData : Obligations.ReadAfterWriteReturnsTheData := by
  intro s w a v hw aligned hidle h
  have hl : LegalAccess w a := legalAccess_of_aligned (by omega) aligned
  refine ⟨_, _, (exec_writeOf hw a v s).trans (busWrite_performed s hl (by simp [hidle]) v),
    (exec_readOf hw a _).trans (busRead_legal _ hl), rfl, ?_⟩
  show (readData w a (acknowledge (performWrite w a v s))).toNat = _
  rw [readData_performWrite v hidle h, assemble_dataBytes]

/-! ### Writing the same value again -/

/-- `u` is `t` but for the port's record and for how its buffers are listed: they read the same. -/
def ReadsAs (t u : State) : Prop :=
  u = { t with resp := u.resp, draws := u.draws, inBuf := u.inBuf, outBuf := u.outBuf }
    ∧ ∀ i, Memory.read? u.inBuf i = Memory.read? t.inBuf i ∧ Memory.read? u.outBuf i = Memory.read? t.outBuf i

theorem Memory.read?_writeBelow_twice (cap : Nat) (m : Memory) (i : Nat) (bs : List Byte) (j : Nat) :
    read? (writeBelow cap (writeBelow cap m i bs) i bs) j = read? (writeBelow cap m i bs) j := by
  simp only [read?_writeBelow]
  split_ifs <;> rfl

/-- Anywhere but at CMD, a write performed twice is that write performed once (R76). -/
theorem performWrite_twice {a : Offset} (ha : regAt a ≠ .cmd) (w : Nat) (v : Word) (s : State) :
    ReadsAs (acknowledge (performWrite w a v s))
      (acknowledge (performWrite w a v (acknowledge (performWrite w a v s)))) := by
  unfold performWrite
  cases region a
  case registers =>
    unfold writeReg
    cases hreg : regAt a
    case cmd => exact absurd hreg ha
    case status => exact ⟨by simp [acknowledge, writeStatus], fun _ => ⟨rfl, rfl⟩⟩
    all_goals exact ⟨rfl, fun _ => ⟨rfl, rfl⟩⟩
  case inWindow => exact ⟨rfl, fun i => ⟨Memory.read?_writeBelow_twice _ _ _ _ i, rfl⟩⟩
  case outWindow => exact ⟨rfl, fun i => ⟨rfl, Memory.read?_writeBelow_twice _ _ _ _ i⟩⟩
  case unmapped => exact ⟨rfl, fun _ => ⟨rfl, rfl⟩⟩

/-- Whether a write can be dropped depends on the state only through IN_CAP. -/
theorem droppable_congr {s t : State} (h : t.inCap = s.inCap) (a : Offset) (w : Nat) :
    droppable t a w = droppable s a w := by
  unfold droppable touchesBuffer State.outCap
  rw [h]

/-- A write that is performed leaves what decides whether the next one is dropped, but at CMD (R236). -/
theorem performWrite_keeps_drop {a : Offset} (ha : regAt a ≠ .cmd) (w : Nat) (v : Word) (s : State) :
    ((performWrite w a v s).busy && droppable (performWrite w a v s) a w) = (s.busy && droppable s a w) := by
  obtain hbusy | ⟨-, hcmd, -⟩ := performWrite_busy w a v s
  · obtain ⟨-, hcap⟩ := performWrite_port w a v s
    rw [hbusy, droppable_congr hcap]
  · exact absurd hcmd ha

/-- Settles O23: the second write is refused, dropped or performed as the first one is. -/
theorem repeatedWriteIsOneWrite : Obligations.RepeatedWriteIsOneWrite := by
  intro s w a v hw ha
  have hcmd : regAt a ≠ .cmd := fun h => ha (BitVec.eq_of_toNat_eq ((regAt_eq_iff (by decide)).mp h))
  simp only [exec_writeOf hw]
  show ∃ t u, busWrite w a v s = .next t ∧ busWrite w a v t = .next u ∧ ReadsAs t u
  by_cases hl : LegalAccess w a
  · cases hd : s.busy && droppable s a w
    · have hd' : ((performWrite w a v s).busy && droppable (performWrite w a v s) a w) = false :=
        (performWrite_keeps_drop hcmd w v s).trans hd
      exact ⟨_, _, busWrite_performed s hl hd v, busWrite_performed (acknowledge _) hl hd' v,
        performWrite_twice hcmd w v s⟩
    · exact ⟨_, _, busWrite_dropped s hl hd v, busWrite_dropped (acknowledge (setDrop s)) hl hd v,
        rfl, fun _ => ⟨rfl, rfl⟩⟩
  · exact ⟨_, _, busWrite_illegal s hl v, busWrite_illegal _ hl v, rfl, fun _ => ⟨rfl, rfl⟩⟩

/-! ### What a completion keeps -/

/-- What a completion keeps (R118, R209). -/
theorem completion_frame {s u : State} (h : completion s = .next u) :
    Kept s u ∧ u.snap = s.snap ∧ u.resp = s.resp := by
  obtain ⟨_, _, _, _, _, -, rfl⟩ | ⟨_, _, _, _, -, rfl⟩ := completion_cases h
  · exact ⟨by constructor <;> simp, by simp, by simp⟩
  · exact ⟨by constructor <;> simp, by simp, by simp⟩

theorem engineTurn_busy {s : State} (hb : s.busy = true) : engineTurn s = completion s := if_pos hb

theorem engineTurn_frame {s u : State} (h : engineTurn s = .next u) :
    Kept s u ∧ u.snap = s.snap ∧ u.resp = s.resp := by
  obtain ⟨-, rfl⟩ | ⟨-, hc⟩ := engineTurn_cases h
  · exact ⟨⟨rfl, rfl, rfl, rfl, rfl, rfl⟩, rfl, rfl⟩
  · exact completion_frame hc

/-! ### The output of a completion -/

/-- A result's output fits in `outLen`, and only ENC and DEC have one (R117, R171). -/
def ExecResult.WritesOnlyOutput (op : BitVec 4) : ExecResult → Prop
  | .ok out outLen _ _ _ => out.length ≤ outLen ∧ (op ≠ 2 → op ≠ 3 → out = [])
  | .err _ _ _ _ | .stopped _ => True

theorem decExec_writesOnlyOutput {op : BitVec 4} (n : Nat) (syms : List Byte) {write : Bool}
    (hop : write = true → op = 3) : (decExec n syms write).WritesOnlyOutput op := by
  unfold decExec
  split
  · exact trivial
  · dsimp only
    split
    · exact trivial
    · cases write
      · exact ⟨Nat.zero_le _, fun _ _ => rfl⟩
      · exact ⟨(length_decodeSymbols n syms).le, fun _ h3 => absurd (hop rfl) h3⟩

theorem execElements_writesOnlyOutput (op : BitVec 4) (n elen : Nat) (inBuf : Memory) :
    (execElements op n elen inBuf).WritesOnlyOutput op := by
  unfold execElements
  split
  · exact trivial
  · dsimp only
    split_ifs with h2 h3
    · exact ⟨(length_encodeBytes n _).le, fun h => absurd h2 h⟩
    · exact decExec_writesOnlyOutput n _ fun _ => h3
    · exact decExec_writesOnlyOutput n _ nofun

theorem engineExec_writesOnlyOutput (cap : Nat) (snap : Snap) (inBuf : Memory) :
    (engineExec cap snap inBuf).WritesOnlyOutput snap.op := by
  unfold engineExec
  split_ifs with hop hres hwidth hgsz hlen
  · exact trivial
  · exact trivial
  · exact trivial
  · exact ⟨Nat.le_refl _, fun _ _ => rfl⟩
  · exact trivial
  · exact execElements_writesOnlyOutput _ _ _ _

/-- Settles O41: `completion_frame` for what is kept, and for OUT the bound of the output and that of OUT_LEN, which fits
in its register by R9. -/
theorem completionTouchesOnlyItsOutput : Obligations.CompletionTouchesOnlyItsOutput := by
  intro s u hinv hb hu
  have hc : completion s = .next u := engineTurn_busy hb ▸ hu
  obtain ⟨kept, hsnap, hresp⟩ := completion_frame hc
  obtain ⟨hbusy, hdone⟩ := completion_flags hc
  refine ⟨kept, hsnap, hresp, hbusy, hdone, ?_⟩
  have output := engineExec_writesOnlyOutput s.inCap s.snap s.inBuf
  have bounds := engineExec_within s.inCap s.snap s.inBuf
  obtain ⟨out, outLen, res, fullg, resid, hr, rfl⟩ | ⟨code, value, ovhbits, index, -, rfl⟩ := completion_cases hc
  · rw [hr] at output bounds
    obtain ⟨fits, onlyEncDec⟩ := output
    obtain ⟨-, houtLen, -⟩ := bounds
    have hcap : s.inCap ≤ 65536 := hinv.capacity.2
    refine ⟨fun h => absurd rfl h, fun h2 h3 => ?_, fun i hi => ?_⟩
    · rw [completeOk_outBuf, onlyEncDec h2 h3, runDatapath_outBuf]
      rfl
    · have beyond : ¬ (0 ≤ i ∧ i < 0 + out.length) := by
        rw [completeOk_outLen, BitVec.toNat_ofNat, Nat.mod_eq_of_lt (by omega)] at hi
        omega
      rw [completeOk_outBuf, Memory.read?_writeFrom, if_neg beyond, runDatapath_outBuf]
  · have same : (completeErr code value ovhbits index (runDatapath s)).outBuf = s.outBuf := runDatapath_outBuf s
    exact ⟨fun _ => ⟨same, rfl, rfl, rfl, rfl⟩, fun _ _ => same, fun i _ => by rw [same]⟩

/-! ### What a command's result depends on -/

theorem Memory.elements_congr {m m' : Memory} {count : Nat} (h : ∀ i, i < count → read? m' i = read? m i) :
    elements m' count = elements m count :=
  List.map_congr_left fun i hi => by rw [h i (List.mem_range.mp hi)]

theorem Memory.firstUnwritten_congr {m m' : Memory} {count : Nat} (h : ∀ i, i < count → read? m' i = read? m i) :
    firstUnwritten m' count = firstUnwritten m count := by
  unfold firstUnwritten
  refine List.find?_congr fun i hi => ?_
  rw [h i (List.mem_range.mp hi)]

theorem engineExec_congr {cap : Nat} {snap : Snap} {m m' : Memory}
    (h : ∀ i, i < snap.elen.toNat → Memory.read? m' i = Memory.read? m i) :
    engineExec cap snap m' = engineExec cap snap m := by
  simp only [engineExec, execElements, Memory.elements_congr h, Memory.firstUnwritten_congr h]

theorem completion_eq_ok {s : State} {out : List Byte} {outLen fullg : Nat} {res : GroupSizes} {resid : Word}
    (h : engineExec s.inCap s.snap s.inBuf = .ok out outLen res fullg resid) :
    completion s = .next (completeOk out outLen (resWord res) fullg resid (runDatapath s)) := by
  rw [completion, h]

theorem completion_eq_err {s : State} {code : BitVec 4} {value : BitVec 8} {ovhbits index : Nat}
    (h : engineExec s.inCap s.snap s.inBuf = .err code value ovhbits index) :
    completion s = .next (completeErr code value ovhbits index (runDatapath s)) := by
  rw [completion, h]

/-- Settles O43: `engineExec` reads IN only below ELEN, and both states complete with its result. -/
theorem commandResultIsAFunctionOfSnapshotAndInput : Obligations.CommandResultIsAFunctionOfSnapshotAndInput := by
  intro s s' u hb hb' hcap hsnap hin hu
  have hc : completion s = .next u := engineTurn_busy hb ▸ hu
  have same : engineExec s'.inCap s'.snap s'.inBuf = engineExec s.inCap s.snap s.inBuf := by
    rw [hcap, hsnap, engineExec_congr hin]
  obtain ⟨out, _, _, _, _, hr, rfl⟩ | ⟨_, _, _, _, hr, rfl⟩ := completion_cases hc
  · refine ⟨_, (engineTurn_busy hb').trans (completion_eq_ok (same.trans hr)),
      rfl, rfl, rfl, rfl, rfl, rfl, rfl, out, ?_, ?_⟩
    · rw [completeOk_outBuf, runDatapath_outBuf]
    · rw [completeOk_outBuf, runDatapath_outBuf]
  · refine ⟨_, (engineTurn_busy hb').trans (completion_eq_err (same.trans hr)),
      rfl, rfl, rfl, rfl, rfl, ?_, rfl, [], ?_, ?_⟩
    · simp [hsnap]
    · rw [completeErr_outBuf, runDatapath_outBuf]
      rfl
    · rw [completeErr_outBuf, runDatapath_outBuf]
      rfl

/-! ### A write that races a completion -/

/-- A completion reads no WDROP, and passes it on. -/
theorem completion_setDrop {s u : State} (h : completion s = .next u) :
    completion (setDrop s) = .next (setDrop u) := by
  have run : runDatapath (setDrop s) = setDrop (runDatapath s) := by
    unfold runDatapath setDrop
    dsimp only
    split_ifs <;> rfl
  obtain ⟨_, _, _, _, _, hr, rfl⟩ | ⟨_, _, _, _, hr, rfl⟩ := completion_cases h
  · rw [completion_eq_ok (s := setDrop s) hr, run]
    rfl
  · rw [completion_eq_err (s := setDrop s) hr, run]
    rfl

/-- A write to LEN is dropped while BUSY = 1 (R236). -/
theorem exec_write_len_busy {s : State} (hb : s.busy = true) (v : Word) :
    exec (decode ⟨true, 0b10#2, 0x0000C#20, v⟩) s = .next (acknowledge (setDrop s)) := by
  have legal : LegalAccess 4 0x0000C#20 := legalAlign_iff.mp (by decide)
  rw [exec_decode_wr32]
  exact busWrite_dropped s legal (by rw [hb]; rfl) v

/-- A write to LEN reaches it while BUSY = 0 (R25). -/
theorem exec_write_len_idle {s : State} (hidle : s.busy = false) (v : Word) :
    exec (decode ⟨true, 0b10#2, 0x0000C#20, v⟩) s = .next (acknowledge { s with len := v }) := by
  show exec (.wr32 0x0000C#20 v) s = _
  exact exec_wr32_register s v (by decide) (by decide) (.inl hidle)

/-- Settles O48: the completion is the same with the write dropped before it (`completion_setDrop`), and after it the
write takes effect. -/
theorem raceOfWriteAndCompletionAdmitsBothOrders : Obligations.RaceOfWriteAndCompletionAdmitsBothOrders := by
  intro s v rest hinv hb hwritten
  obtain ⟨complete, -⟩ := acceptedCommandsComplete s hinv hb
  obtain ⟨u, hu, hidle, hdone⟩ := complete hwritten
  obtain ⟨kept, -, -⟩ := engineTurn_frame hu
  have dropped : engineTurn (setDrop s) = .next (setDrop u) :=
    (engineTurn_busy (s := setDrop s) hb).trans (completion_setDrop (engineTurn_busy hb ▸ hu))
  refine ⟨?_, ?_, ?_, ?_, ?writeFirst, ?thenCompletion, ?completionFirst, ?thenWrite, ?same⟩
  case writeFirst => exact exec_write_len_busy (s := { s with inputs := .engine :: rest }) hb v
  case thenCompletion => exact engineTurn_port dropped _ rest _
  case completionFirst => exact engineTurn_port hu _ (.bus ⟨true, 0b10#2, 0x0000C#20, v⟩ :: rest) _
  case thenWrite => exact exec_write_len_idle (s := { u with resp := _, inputs := rest, draws := _ }) hidle v
  case same =>
    exact ⟨kept.len, rfl, rfl, kept.wdrop, hidle, hidle, hdone, hdone, rfl, rfl, rfl, rfl, rfl, rfl, rfl, rfl⟩

/-! ### Safe runs -/

/-- Every byte of IN is written. -/
def InWritten (s : State) : Prop := ∀ i, i < s.inCap → (Memory.read? s.inBuf i).isSome = true

/-- The engine's turn, a `wait` loop, or a legal request: the events of a legal program, without RST. -/
def LegalEvent (e : Input) : Prop := e = .engine ∨ (∃ late, e = .wait late) ∨ ∃ r, e = .bus r ∧ LegalRequest r

/-- What a legal program over written input keeps from step to step. -/
structure Safe (s : State) : Prop where
  inv     : Inv s
  answer  : s.resp.err = false
  written : InWritten s
  legal   : ∀ e ∈ s.inputs, LegalEvent e

theorem performWrite_inWritten {s : State} (h : InWritten s) (w : Nat) (a : Offset) (v : Word) :
    InWritten (performWrite w a v s) := by
  obtain heq | ⟨-, -, heq⟩ | ⟨-, -, heq⟩ | ⟨-, -, heq⟩ | ⟨-, -, heq⟩ | ⟨-, heq⟩ | ⟨-, heq⟩ :=
    performWrite_cases w a v s <;> rw [heq]
  case inr.inr.inr.inl =>
    obtain ⟨-, hcap, hbuf⟩ := startCommand_port (v.extractLsb' 0 4) s
    simpa only [InWritten, hcap, hbuf] using h
  case inr.inr.inr.inr.inr.inl =>
    intro i hi
    show (Memory.read? (Memory.writeBelow s.inCap s.inBuf (inIndex a 0) (dataBytes w v)) i).isSome = true
    rw [Memory.read?_writeBelow]
    split
    case isTrue inside =>
      obtain ⟨low, high, -⟩ := inside
      rw [List.getElem?_eq_getElem (by omega)]
      rfl
    case isFalse => exact h i hi
  all_goals exact h

theorem exec_inWritten {i : Instr} {s t : State} (h : InWritten s) (hx : exec i s = .next t) : InWritten t := by
  obtain ⟨w, a, -, rfl⟩ | rfl | ⟨-, rfl⟩ | ⟨-, op, rfl⟩ | ⟨w, a, v, -, -, rfl⟩ := exec_cases hx
  case inr.inr.inr.inl =>
    obtain ⟨-, hcap, hbuf⟩ := startCommand_port op s
    simpa only [InWritten, acknowledge_inCap, acknowledge_inBuf, hcap, hbuf] using h
  case inr.inr.inr.inr => exact performWrite_inWritten h w a v
  all_goals exact h

/-- Where all of IN is written no command stops: one whose ELEN goes beyond IN ends with an error (R139, R239). -/
theorem engineExec_ne_stopped_of_inWritten {s : State} (hop : s.snap.op ≠ 0) (h : InWritten s) (why : Fault) :
    engineExec s.inCap s.snap s.inBuf ≠ .stopped why := by
  by_cases hlen : s.inCap < s.snap.elen.toNat
  · unfold engineExec
    rw [if_neg hop]
    split_ifs <;> nofun
  · have all : Memory.firstUnwritten s.inBuf s.snap.elen.toNat = none :=
      Memory.firstUnwritten_eq_none.mpr fun i hi => h i (by omega)
    exact engineExec_ne_stopped hop all why

theorem engineTurn_safe {s : State} (h : Safe s) : ∃ t, engineTurn s = .next t ∧ Safe t := by
  have answers : ∃ t, engineTurn s = .next t := by
    unfold engineTurn
    split
    case isTrue hb =>
      obtain ⟨hop, -⟩ := h.inv.busy_snap hb
      exact completion_answers (engineExec_ne_stopped_of_inWritten hop h.written)
    case isFalse => exact ⟨s, rfl⟩
  obtain ⟨t, ht⟩ := answers
  obtain ⟨kept, -, hresp⟩ := engineTurn_frame ht
  exact ⟨t, ht, engineTurn_inv h.inv ht, hresp ▸ h.answer,
    by simpa only [InWritten, kept.inCap, kept.inBuf] using h.written, kept.inputs ▸ h.legal⟩

theorem exec_safe {r : BusReq} {s : State} (h : Safe s) (hl : LegalRequest r) :
    ∃ t, exec (decode r) s = .next t ∧ Safe t := by
  obtain ⟨t, ht, herr⟩ := exec_decode_legal hl s
  obtain ⟨hinputs, -⟩ := exec_port ht
  exact ⟨t, ht, exec_inv h.inv ht, herr, exec_inWritten h.written ht, hinputs ▸ h.legal⟩

theorem waitAgain_legal (late : Nat) : ∀ e ∈ waitAgain late, LegalEvent e := by
  cases late <;> simp [waitAgain, LegalEvent]

theorem waitTurn_safe (late : Nat) {s : State} (h : Safe s) : ∃ t, waitTurn late s = .next t ∧ Safe t := by
  refine ⟨_, waitTurn_next late s, port_inv h.inv _ _ _, rfl, h.written, fun e he => ?_⟩
  dsimp only at he
  split at he
  · obtain hagain | hrest := List.mem_append.mp he
    · exact waitAgain_legal late e hagain
    · exact h.legal e hrest
  · exact h.legal e he

theorem step_safe {s : State} (h : Safe s) : ∃ t, step s = .next t ∧ Safe t := by
  have first : ∀ e rest, s.inputs = e :: rest → LegalEvent e ∧ Safe { s with inputs := rest } := by
    intro e rest hin
    obtain ⟨he, hrest⟩ := List.forall_mem_cons.mp (hin ▸ h.legal)
    exact ⟨he, port_inv h.inv _ _ rest, h.answer, h.written, hrest⟩
  unfold step
  split
  case h_1 => exact engineTurn_safe h
  case h_2 r rest hin =>
    obtain ⟨he, hs⟩ := first _ _ hin
    have hl : LegalRequest r := by simpa [LegalEvent] using he
    exact exec_safe hs hl
  case h_3 rest hin => exact engineTurn_safe (first _ _ hin).2
  case h_4 late rest hin => exact waitTurn_safe late (first _ _ hin).2
  case h_5 rest hin =>
    obtain ⟨he, -⟩ := first _ _ hin
    simp [LegalEvent] at he

theorem safeRun_of_safe {s : State} (h : Safe s) (steps : Nat) : SafeRun steps s := by
  induction steps generalizing s with
  | zero => exact h.answer
  | succ steps ih =>
    obtain ⟨t, ht, hs⟩ := step_safe h
    exact ⟨h.answer, t, ht, ih hs⟩

/-- Settles O45, by induction on the steps: each one answers and keeps `Safe`. -/
theorem legalProgramsOverWrittenInputRunSafely : Obligations.LegalProgramsOverWrittenInputRunSafely :=
  fun _ steps hinv herr hwritten hlegal => safeRun_of_safe ⟨hinv, herr, hwritten, hlegal⟩ steps

end Sys2Proof.Machine

/-! Proofs of the family 30_encoding: the decoder and the encoder, the host operations as events, and the host's `wait`
loop. -/

namespace Sys2Proof.Machine

open Sys2Proof.Rules

/-! ### Decoding what is encoded -/

/-- A well-formed instruction decodes from its request: `wellFormed` excludes the one name the decoder does not give,
that of a 4-byte write at CMD (R104). -/
theorem decode_encode {i : Instr} (h : i.wellFormed = true) : decode (encode i) = i := by
  cases i
  case wr32 a v =>
    have ha : a ≠ cmdOffset := by simpa [Instr.wellFormed] using h
    exact if_neg ha
  all_goals rfl

/-- Settles O1, by `decode_encode`. -/
theorem decodeOfEncodeIsTheInstruction : Obligations.DecodeOfEncodeIsTheInstruction :=
  fun _ h => decode_encode h

/-- Settles O3: each row is one value of `BusReq.code`. -/
theorem requestCodesSelectTheirRows : Obligations.RequestCodesSelectTheirRows :=
  fun _ _ => ⟨rfl, rfl, rfl, rfl, rfl, rfl, rfl, rfl⟩

/-- Settles O6, by evaluation. -/
theorem sampleRequestsDecode : Obligations.SampleRequestsDecode := by
  unfold Obligations.SampleRequestsDecode
  decide

/-! ### The command of a word -/

/-- Settles O4, by `opOf_decodeCmd`. -/
theorem commandWordSelectsByItsOpField : Obligations.CommandWordSelectsByItsOpField := opOf_decodeCmd

/-- Settles O24: both spellings request the command of bits 3:0 (`busWrite_cmd`, `exec_of_opOf`). -/
theorem commandWriteIsItsCommand : Obligations.CommandWriteIsItsCommand := fun v s =>
  calc exec (.wr32 0x00010#20 v) s = commandRequest (v.extractLsb' 0 4) s := busWrite_cmd v s
    _ = exec (decodeCmd v) s := (exec_of_opOf (opOf_decodeCmd v) s).symm

/-- `decodeCmd` looks at bits 3:0 alone (R93). -/
theorem decodeCmd_congr {v w : Word} (h : v.extractLsb' 0 4 = w.extractLsb' 0 4) : decodeCmd v = decodeCmd w := by
  rw [decodeCmd, decodeCmd, h]

/-- Settles O5: both words are the same command (`decodeCmd_congr`), and a write at CMD is its command. -/
theorem commandWordHighBitsHaveNoEffect : Obligations.CommandWordHighBitsHaveNoEffect := by
  refine ⟨fun v w h => ⟨decodeCmd_congr h, fun s => ?_⟩, rfl⟩
  rw [commandWriteIsItsCommand, commandWriteIsItsCommand, decodeCmd_congr h]

/-! ### Encoding what is decoded -/

/-- A command is encoded with its OP in bits 3:0 and the ignored bits 0 (R91). -/
theorem encode_of_opOf {i : Instr} {op : BitVec 4} (h : opOf i = some op) : encode i = cmdRequest op := by
  cases i <;> cases h <;> rfl

/-- Bits 3:0 alone of a word, as a word. -/
theorem setWidth_opField (v : Word) : (v.extractLsb' 0 4).setWidth 32 = v &&& 0xF#32 := by
  have low : v.toNat &&& 0xF = v.toNat % 16 := Nat.and_two_pow_sub_one_eq_mod v.toNat 4
  apply BitVec.eq_of_toNat_eq
  rw [BitVec.toNat_setWidth, BitVec.extractLsb'_toNat, BitVec.toNat_and, Nat.shiftRight_zero]
  exact (Nat.mod_eq_of_lt (by omega)).trans low.symm

/-- The command of a word is encoded as the word with its ignored bits 31:4 at 0 (R91, R93). -/
theorem encode_decodeCmd (v : Word) : encode (decodeCmd v) = ⟨true, 0b10#2, cmdOffset, v &&& 0xF#32⟩ := by
  rw [encode_of_opOf (opOf_decodeCmd v), cmdRequest, setWidth_opField]

/-- A 4-byte write at any other offset keeps its ADDR and WDATA (R98, R105). -/
theorem encode_decode_wr32 {a : Offset} (ha : a ≠ cmdOffset) (v : Word) :
    encode (decode ⟨true, 0b10#2, a, v⟩) = ⟨true, 0b10#2, a, v⟩ :=
  congrArg encode (if_neg ha)

/-- Settles O2, by the eight request codes: only a 4-byte write can be a command word. -/
theorem encodeOfDecodeKeepsEveryBitThatCounts : Obligations.EncodeOfDecodeKeepsEveryBitThatCounts := by
  rintro ⟨we, size, addr, wdata⟩
  have sizes : size = 0b00#2 ∨ size = 0b01#2 ∨ size = 0b10#2 ∨ size = 0b11#2 := by revert size; decide
  cases we
  case false => obtain rfl | rfl | rfl | rfl := sizes <;> rfl
  case true =>
    obtain rfl | rfl | rfl | rfl := sizes
    case inr.inr.inl =>
      by_cases ha : addr = 0x00010#20
      · rw [ha]
        exact encode_decodeCmd wdata
      · simpa [ha] using encode_decode_wr32 ha wdata
    all_goals rfl

/-! ### The host operations -/

@[simp] theorem length_writeBytes (off : Nat) (bs : List Byte) : (writeBytes off bs).length = bs.length := by
  simp [writeBytes]

/-- Byte `t` of a `load` or `fill` is the one-byte write at offset `off + t` (R102). -/
theorem getElem?_writeBytes {off t : Nat} {bs : List Byte} {b : Byte} (h : bs[t]? = some b) :
    (writeBytes off bs)[t]? = some ⟨true, 0b00#2, BitVec.ofNat 20 (off + t), b.setWidth 32⟩ := by
  simp [writeBytes, writeRequest, h]

/-- Settles O7: `load` and `fill` are `writeBytes`, and the other operations are the rows of the table. -/
theorem hostOperationsExpandToTheirRequests : Obligations.HostOperationsExpandToTheirRequests := by
  intro late
  refine ⟨fun a v => ⟨rfl, rfl, rfl, rfl, rfl, rfl⟩, fun n => rfl, fun n => rfl, rfl, rfl, rfl, rfl, rfl, rfl, rfl,
    fun i bs => ⟨?_, fun t b hb => ?_⟩, fun i count b => ⟨?_, fun t ht => ?_⟩⟩
  · simp [HostOp.expand]
  · simp [HostOp.expand, getElem?_writeBytes hb, inBase]
  · simp [HostOp.expand]
  · have hb : (List.replicate count b)[t]? = some b := by simp [ht]
    simp [HostOp.expand, getElem?_writeBytes hb, outBase]

/-! ### The steps of the polling loop -/

/-- A read of STATUS answers `statusWord` (R32). -/
theorem exec_rd32_status (s : State) :
    exec (.rd32 0x00014#20) s = .next (answered (statusWord s) (s.draws + 4) s) :=
  exec_rd32_register s (by decide) (by decide)

theorem step_engine {s : State} {rest : List Input} (hin : s.inputs = .engine :: rest) :
    step s = engineTurn { s with inputs := rest } := by
  rw [step, hin]

theorem engineTurn_idle {s : State} (hidle : s.busy = false) : engineTurn s = .next s := by
  simp [engineTurn, hidle]

/-- A turn of the polling loop is a read of STATUS (R103), after which the loop goes on exactly where BUSY = 1. -/
theorem step_wait {s : State} {late : Nat} {rest : List Input} (hin : s.inputs = .wait late :: rest) :
    step s = .next { answered (statusWord s) (s.draws + 4) s with
      inputs := if s.busy then waitAgain late ++ rest else rest } := by
  rw [step, hin]
  exact waitTurn_next late { s with inputs := rest }

theorem step_wait_busy {s : State} {late : Nat} {rest : List Input} (hb : s.busy = true)
    (hin : s.inputs = .wait late :: rest) :
    step s = .next { answered (statusWord s) (s.draws + 4) s with inputs := waitAgain late ++ rest } := by
  rw [step_wait hin, if_pos hb]

/-- While BUSY = 0 the loop ends at its first read, which shows BUSY = 0 and DONE (R103). -/
theorem step_wait_idle {s : State} {late : Nat} {rest : List Input} (hidle : s.busy = false)
    (hin : s.inputs = .wait late :: rest) :
    ∃ t, step s = .next t ∧ t = { s with inputs := rest, resp := t.resp, draws := t.draws }
      ∧ t.resp.err = false ∧ t.resp.rdata.getLsbD 0 = false ∧ t.resp.rdata.getLsbD 1 = s.done := by
  have read := step_wait hin
  rw [if_neg (by simp [hidle])] at read
  exact ⟨_, read, rfl, rfl, (statusWord_busy s).trans hidle, statusWord_done s⟩

/-- Settles O9: each event is one arm of `step`, and the turn of a `wait` loop is `step_wait`. -/
theorem stepGivesTheEngineItsTurnAndTakesReset : Obligations.StepGivesTheEngineItsTurnAndTakesReset := by
  intro s rest
  refine ⟨step_engine, fun hin => ?none, fun late hin => ?wait, fun hin => ?rst, engineTurn_idle⟩
  case none => rw [step, hin]
  case rst => rw [step, hin]
  case wait =>
    refine ⟨_, exec_rd32_status { s with inputs := rest }, ?_⟩
    have bit0 : (statusWord { s with inputs := rest }).getLsbD 0 = s.busy := statusWord_busy _
    rw [step_wait hin]
    simp only [answered, bit0]
    cases late <;> rfl

theorem runSteps_of_step {s t : State} (h : step s = .next t) (steps : Nat) :
    runSteps (steps + 1) s = runSteps steps t := by
  rw [runSteps, h]

/-- While BUSY = 1 the loop reads STATUS `late` + 1 times, and then the engine is to move (R103, R120; log 19). -/
theorem runSteps_wait_busy (steps late : Nat) {s : State} {rest : List Input} (hb : s.busy = true)
    (hin : s.inputs = .wait late :: rest) :
    ∃ resp draws, runSteps (steps + (late + 1)) s
      = runSteps steps { s with resp := resp, inputs := .engine :: .wait 0 :: rest, draws := draws } := by
  induction late generalizing s with
  | zero => exact ⟨_, _, runSteps_of_step (step_wait_busy hb hin) steps⟩
  | succ late ih =>
    have read : step s = .next { answered (statusWord s) (s.draws + 4) s with inputs := .wait late :: rest } :=
      step_wait_busy hb hin
    obtain ⟨resp, draws, run⟩ :=
      ih (s := { answered (statusWord s) (s.draws + 4) s with inputs := .wait late :: rest }) hb rfl
    exact ⟨resp, draws, (runSteps_of_step read _).trans run⟩

/-! ### From an accept until RST, BUSY or DONE is 1 -/

theorem startCommand_active {s : State} (op : BitVec 4) (h : s.busy = true ∨ s.done = true) :
    (startCommand op s).busy = true ∨ (startCommand op s).done = true := by
  obtain ⟨-, heq⟩ | ⟨-, heq⟩ := startCommand_cases op s <;> rw [heq]
  · exact h
  · exact .inl rfl

theorem performWrite_active {s : State} (w : Nat) (a : Offset) (v : Word) (h : s.busy = true ∨ s.done = true) :
    (performWrite w a v s).busy = true ∨ (performWrite w a v s).done = true := by
  obtain heq | ⟨-, -, heq⟩ | ⟨-, -, heq⟩ | ⟨-, -, heq⟩ | ⟨-, -, heq⟩ | ⟨-, heq⟩ | ⟨-, heq⟩ :=
    performWrite_cases w a v s <;> rw [heq]
  case inr.inr.inr.inl => exact startCommand_active _ h
  all_goals exact h

/-- No request clears DONE, but for an accept, which sets BUSY (R28, R112). -/
theorem exec_active {i : Instr} {s t : State} (hx : exec i s = .next t) (h : s.busy = true ∨ s.done = true) :
    t.busy = true ∨ t.done = true := by
  obtain ⟨w, a, -, rfl⟩ | rfl | ⟨-, rfl⟩ | ⟨-, op, rfl⟩ | ⟨w, a, v, -, -, rfl⟩ := exec_cases hx
  case inr.inr.inr.inl => exact startCommand_active op h
  case inr.inr.inr.inr => exact performWrite_active w a v h
  all_goals exact h

/-- The engine's turn clears BUSY only in a completion, which sets DONE (R28, R117, R118). -/
theorem engineTurn_active {s t : State} (hx : engineTurn s = .next t) (h : s.busy = true ∨ s.done = true) :
    t.busy = true ∨ t.done = true := by
  obtain ⟨-, rfl⟩ | ⟨-, hc⟩ := engineTurn_cases hx
  · exact h
  · obtain ⟨-, hdone⟩ := completion_flags hc
    exact .inr hdone

theorem waitTurn_active {late : Nat} {s t : State} (hx : waitTurn late s = .next t)
    (h : s.busy = true ∨ s.done = true) : t.busy = true ∨ t.done = true := by
  rw [waitTurn_next] at hx
  cases hx
  exact h

theorem step_active {s t : State} (hx : step s = .next t) (hrst : ∀ rest, s.inputs ≠ .rst :: rest)
    (h : s.busy = true ∨ s.done = true) : t.busy = true ∨ t.done = true := by
  obtain ⟨-, hx⟩ | ⟨_, _, -, hx⟩ | ⟨_, -, hx⟩ | ⟨_, _, -, hx⟩ | ⟨rest, hin, -⟩ := step_cases hx
  · exact engineTurn_active hx h
  · exact exec_active hx h
  · exact engineTurn_active hx h
  · exact waitTurn_active hx h
  · exact absurd hin (hrst rest)

/-- After a request for a command with OP ≠ 0, BUSY is 1: it is accepted, or dropped because BUSY is 1 already
(R112, R114). -/
theorem exec_command_busy {i : Instr} {op : BitVec 4} {s t : State} (hop : opOf i = some op) (h0 : op ≠ 0)
    (hx : exec i s = .next t) : t.busy = true := by
  rw [exec_of_opOf hop] at hx
  obtain ⟨hb, rfl⟩ | ⟨-, rfl⟩ := commandRequest_cases hx
  · exact hb
  · rw [acknowledge_busy, startCommand, if_neg h0]
    rfl

/-! ### The end of the polling loop -/

/-- The loop of a running command over written input ends after the completion, in what the completion leaves (R103,
R120): `late` + 1 reads that find BUSY = 1, the engine's turn, and the read that ends the loop. -/
theorem runSteps_wait_completes {s : State} {late : Nat} {rest : List Input} (hinv : Inv s) (hb : s.busy = true)
    (hwritten : ∀ i, i < s.len.toNat → (Memory.read? s.inBuf i).isSome = true)
    (hin : s.inputs = .wait late :: rest) :
    ∃ u t, engineTurn s = .next u ∧ runSteps (late + 3) s = .next t
      ∧ t = { u with inputs := rest, resp := t.resp, draws := t.draws }
      ∧ t.busy = false ∧ t.done = true ∧ t.resp.err = false
      ∧ t.resp.rdata.getLsbD 0 = false ∧ t.resp.rdata.getLsbD 1 = true := by
  obtain ⟨complete, -⟩ := acceptedCommandsComplete s hinv hb
  obtain ⟨u, hu, hidle, hdone⟩ := complete hwritten
  obtain ⟨resp, draws, polled⟩ := runSteps_wait_busy 2 late hb hin
  have completed : step { s with resp := resp, inputs := .engine :: .wait 0 :: rest, draws := draws }
      = .next { u with resp := resp, inputs := .wait 0 :: rest, draws := draws } :=
    (step_engine rfl).trans (engineTurn_port hu resp (.wait 0 :: rest) draws)
  obtain ⟨t, ended, ht, herr, bit0, bit1⟩ :=
    step_wait_idle (s := { u with resp := resp, inputs := .wait 0 :: rest, draws := draws }) hidle rfl
  have run : runSteps (late + 3) s = .next t := by
    rw [show late + 3 = 2 + (late + 1) by omega, polled, runSteps_of_step completed, runSteps_of_step ended]
    rfl
  exact ⟨u, t, hu, run, ht, ht ▸ hidle, ht ▸ hdone, herr, bit0, bit1.trans hdone⟩

/-- Settles O60: `runSteps_wait_completes` with a command running, `step_wait_idle` with none, and `step_active` for
what every step but RST keeps. -/
theorem waitEndsWhenTheCommandHasCompleted : Obligations.WaitEndsWhenTheCommandHasCompleted := by
  refine ⟨fun s late rest => runSteps_wait_completes, fun s late rest => step_wait_idle, fun s t hx => ⟨?_, ?_⟩⟩
  · intro r rest op hin hop h0
    rw [stepRunsTheDecodedRequest s r rest hin] at hx
    exact exec_command_busy hop h0 hx
  · exact step_active hx

end Sys2Proof.Machine

/-! Proofs of the family 40_command_control: what a command's request does, and the completion of a command that
fails. -/

namespace Sys2Proof.Machine

open Sys2Proof.Rules

/-! ### The request of a command -/

section
variable {i : Instr} {op : BitVec 4} {s : State}

theorem exec_command_dropped (hop : opOf i = some op) (hb : s.busy = true) :
    exec i s = .next (acknowledge (setDrop s)) :=
  (exec_of_opOf hop s).trans (if_pos hb)

theorem exec_command_started (hop : opOf i = some op) (hidle : s.busy = false) :
    exec i s = .next (acknowledge (startCommand op s)) :=
  (exec_of_opOf hop s).trans (if_neg (by simp [hidle]))

theorem exec_command_accepted (hop : opOf i = some op) (h0 : op ≠ 0) (hidle : s.busy = false) :
    exec i s = .next (acknowledge (acceptCommand op s)) := by
  rw [exec_command_started hop hidle, startCommand, if_neg h0]

end

/-- Settles O25: whatever the OP, the request is the dropped write of `exec_command_dropped`. -/
theorem commandsWhileBusyAreDropped : Obligations.CommandsWhileBusyAreDropped :=
  fun _ _ _ hop hb => ⟨_, _, exec_command_dropped hop hb⟩

/-- Settles O26: NOP starts nothing while BUSY = 0, and is dropped like every command while BUSY = 1. -/
theorem nopChangesNothing : Obligations.NopChangesNothing :=
  fun _ => ⟨fun hidle => ⟨_, _, exec_command_started (i := .nop) rfl hidle⟩,
    commandsWhileBusyAreDropped .nop 0 _ rfl⟩

/-- Settles O27: the answer of `exec_command_accepted`, with the start values of the datapath registers as
witnesses. -/
theorem acceptTakesTheSnapshotAndClearsTheResults : Obligations.AcceptTakesTheSnapshotAndClearsTheResults :=
  fun _ _ _ hop h0 hidle => ⟨_, _, _, _, _, exec_command_accepted hop h0 hidle⟩

/-! ### Commands that fail -/

/-- A completion with an error leaves what R118 and R203 say, when the snapshot holds CTRL.WIDTH, the last response
was no bus error and OVHBITS fits its 4 bits (R37). -/
theorem failed_completeErr {s : State} (hw : s.snap.w = s.width) (herr : s.resp.err = false) (code : BitVec 4)
    (value : BitVec 8) {ovhbits : Nat} (hbits : ovhbits < 16) (index : Nat) :
    Failed s (completeErr code value ovhbits index (runDatapath s)) code value.toNat ovhbits index where
  kept     := by constructor <;> simp
  busy     := rfl
  done     := rfl
  ecode    := rfl
  outLen   := rfl
  res      := rfl
  fullg    := rfl
  resid    := rfl
  errInfo  := by simp [packErrInfo, hw, Nat.mod_eq_of_lt hbits]
  errIndex := rfl
  outBuf   := by simp
  err      := by simp [herr]

/-- A command accepted in an idle state fails with the error that `Exec` finds for its snapshot (R112, R115, R118). -/
theorem command_fails {i : Instr} {op : BitVec 4} {s : State} (hop : opOf i = some op) (h0 : op ≠ 0)
    (hidle : s.busy = false) {code : BitVec 4} {value : BitVec 8} {ovhbits index : Nat} (hbits : ovhbits < 16)
    (hr : engineExec s.inCap ⟨op, s.width, s.len⟩ s.inBuf = .err code value ovhbits index) :
    CompletesWith i s fun u => Failed s u code value.toNat ovhbits index := by
  have failed := failed_completeErr (s := acknowledge (acceptCommand op s)) rfl rfl code value hbits index
  refine ⟨_, _, exec_command_accepted hop h0 hidle, (engineTurn_busy rfl).trans (completion_eq_err hr), ?_⟩
  -- `Kept` and OUT are about fields that the accept leaves as they are in `s`.
  exact { failed with kept := { failed.kept with } }

/-- Settles O29: `Exec` tests OP first (`engineExec_reserved`), so the width, LEN and IN do not count. -/
theorem reservedCommandCompletesWithBadCommand : Obligations.ReservedCommandCompletesWithBadCommand := by
  intro i op s hop h5 hidle
  have h0 : op ≠ 0 := by rintro rfl; simp at h5
  have value : (op.setWidth 8).toNat = op.toNat := BitVec.toNat_setWidth_of_le (by decide)
  exact value ▸ command_fails hop h0 hidle (by decide) (engineExec_reserved h5)

end Sys2Proof.Machine

/-! Proofs of the family 41_group_sizer: the group constants and the length logic, and the completions that they and the
checks before the walk decide. -/

namespace Sys2Proof.Machine

open Sys2Proof.Rules

/-! ### The group constants -/

/-- The table of R132 is what the formulas of R130 give. -/
theorem groupConsts_table {n : Nat} (hn : 1 ≤ n) (hn7 : n ≤ 7) :
    (groupConsts n).ogs = ogs n ∧ (groupConsts n).sgs = sgs n ∧ resWord (groupConsts n) = resTable n := by
  interval_cases n <;> decide

/-- The shifts of R131 divide as R130 does, for each of the seven legal widths. -/
theorem calculator_eq_groupConsts {n : BitVec 3} (hn : n ≠ 0) : calculator n = groupConsts n.toNat := by
  revert n
  decide

/-- Settles O53: `calculator_eq_groupConsts` for the datapath, `groupConsts_table` for the table. -/
theorem groupConstantsAreThoseOfTheTable : Obligations.GroupConstantsAreThoseOfTheTable := by
  intro n hn
  have pos : 1 ≤ n.toNat := Nat.pos_of_ne_zero fun h0 => hn (BitVec.eq_of_toNat_eq h0)
  exact ⟨calculator_eq_groupConsts hn, groupConsts_table pos (Nat.le_of_lt_succ n.isLt)⟩

/-! ### The length logic -/

section
variable {n : Nat}

/-- A whole number of groups of octets adds as many whole groups of symbols to the encoder's count (R135). -/
theorem encCount_add_groups (hn : 1 ≤ n) (groups l : Nat) :
    encCount n (groups * (groupConsts n).ogs + l) = groups * (groupConsts n).sgs + encCount n l := by
  obtain ⟨octets, symbols⟩ := groupConsts_bits n
  have bits : groups * (groupConsts n).ogs * 8 = groups * (groupConsts n).sgs * n := by
    rw [Nat.mul_assoc, Nat.mul_assoc, octets, symbols]
  have dividend : 8 * (groups * (groupConsts n).ogs + l) + n - 1
      = 8 * l + n - 1 + groups * (groupConsts n).sgs * n := by omega
  rw [encCount, dividend, Nat.add_mul_div_right _ _ hn, Nat.add_comm, encCount]

/-- A whole number of groups of symbols adds as many whole groups of octets to the decoder's count (R136). -/
theorem decCount_add_groups (n groups m : Nat) :
    decCount n (groups * (groupConsts n).sgs + m) = groups * (groupConsts n).ogs + decCount n m := by
  obtain ⟨octets, symbols⟩ := groupConsts_bits n
  have dividend : (groups * (groupConsts n).sgs + m) * n = m * n + groups * (groupConsts n).ogs * 8 := by
    rw [Nat.add_mul, Nat.mul_assoc, Nat.mul_assoc, octets, symbols, Nat.add_comm]
  rw [decCount, dividend, Nat.add_mul_div_right _ _ (by decide), Nat.add_comm, decCount]

theorem encLen_rout (n l : Nat) : (encLen n l).rout = encCount n (l % (groupConsts n).ogs) := by
  rw [encCount, Nat.mul_comm 8]
  rfl

theorem encLen_outLen (hn : 1 ≤ n) (l : Nat) : (encLen n l).outLen = encCount n l := calc
  (encLen n l).outLen = l / (groupConsts n).ogs * (groupConsts n).sgs + (encLen n l).rout := rfl
  _ = encCount n (l / (groupConsts n).ogs * (groupConsts n).ogs + l % (groupConsts n).ogs) := by
    rw [encLen_rout, encCount_add_groups hn]
  _ = encCount n l := by rw [Nat.div_add_mod']

theorem decLen_outLen (n m : Nat) : (decLen n m).outLen = decCount n m := calc
  (decLen n m).outLen = m / (groupConsts n).sgs * (groupConsts n).ogs + decCount n (m % (groupConsts n).sgs) := rfl
  _ = decCount n (m / (groupConsts n).sgs * (groupConsts n).sgs + m % (groupConsts n).sgs) :=
    (decCount_add_groups n _ _).symm
  _ = decCount n m := by rw [Nat.div_add_mod']

/-- The bits beyond the last whole octet are the remainder of the division by 8 (R142). -/
theorem overhangBits_eq (n m : Nat) : overhangBits n m = ovhCount n m := by
  rw [overhangBits, decLen_outLen, decCount, ovhCount]
  omega

/-- A partial unit counts as one more (R13). -/
theorem ceilDiv_eq_div_add (a : Nat) {b : Nat} (hb : 1 ≤ b) : ceilDiv a b = a / b + if a % b = 0 then 0 else 1 := by
  have rest_lt : a % b < b := Nat.mod_lt a hb
  have dividend : a + b - 1 = a % b + b - 1 + a / b * b := by
    have := Nat.div_add_mod' a b
    omega
  rw [ceilDiv, dividend, Nat.add_mul_div_right _ _ hb, Nat.add_comm]
  congr 1
  split
  · exact Nat.div_eq_of_lt (by omega)
  · exact Nat.div_eq_of_lt_le (by omega) (by omega)

/-- The encoder gives `m` symbols for `l` octets exactly when their bits are those of the octets and fewer than `n`
bits of padding (R137). -/
theorem eq_encCount_iff (hn : 1 ≤ n) (l m : Nat) : m = encCount n l ↔ 8 * l ≤ m * n ∧ m * n < 8 * l + n := by
  rw [eq_comm, encCount, Nat.div_eq_iff hn]
  omega

/-- The overhang of an encoder output is its padding, which has fewer than `n` bits (R143). -/
theorem ovhCount_lt_iff (hn : 1 ≤ n) (m : Nat) : ovhCount n m < n ↔ m = encCount n (decCount n m) := by
  rw [eq_encCount_iff hn, ovhCount, decCount]
  omega

/-- Since a width is below 8, the octets of an encoder output are those it decodes to (R143). -/
theorem decCount_encCount (hn : 1 ≤ n) (hn7 : n ≤ 7) (l : Nat) : decCount n (encCount n l) = l := by
  obtain ⟨covers, padding⟩ := (eq_encCount_iff hn l _).mp rfl
  rw [decCount]
  omega

end

/-- Settles O54, by `encLen_outLen`, `decLen_outLen` and `overhangBits_eq`; a partial group is one more group. -/
theorem lengthLogicGivesTheExactCounts : Obligations.LengthLogicGivesTheExactCounts := by
  intro n l m hn _
  obtain ⟨octets_pos, -⟩ := groupConsts_bounds hn
  exact ⟨encLen_outLen hn l, decLen_outLen n m, overhangBits_eq n m, ceilDiv_eq_div_add l octets_pos⟩

/-- Settles O55: `ovhCount_lt_iff`, and the octets of an encoder output are no others than those of
`decCount_encCount`. -/
theorem lengthValidCountsAreEncoderLengths : Obligations.LengthValidCountsAreEncoderLengths := by
  intro n m hn hn7
  have valid : lengthValid n m = true ↔ m = encCount n (decCount n m) := by
    rw [lengthValid, decide_eq_true_iff, overhangBits_eq, ovhCount_lt_iff hn]
  refine ⟨valid.trans ⟨fun h => ⟨_, h⟩, ?_⟩, valid⟩
  rintro ⟨l, rfl⟩
  rw [decCount_encCount hn hn7]

/-! ### Commands that complete before they read IN -/

theorem legalWidth_eq_false {w : BitVec 8} (h : ¬ LegalWidth w) : legalWidth w = false :=
  Bool.eq_false_iff.mpr (mt legalWidth_iff.mp h)

/-- A completion without error leaves what R117 says, when the last response was no bus error. -/
theorem completed_completeOk {s : State} (herr : s.resp.err = false) (out : List Byte) (outLen : Nat) (res : Word)
    (fullg : Nat) (resid : Word) :
    Completed s (completeOk out outLen res fullg resid (runDatapath s)) outLen res fullg resid where
  kept     := by constructor <;> simp
  busy     := rfl
  done     := rfl
  ecode    := rfl
  outLen   := rfl
  res      := rfl
  fullg    := rfl
  resid    := rfl
  errInfo  := rfl
  errIndex := rfl
  err      := by simp [herr]

section
variable {i : Instr} {op : BitVec 4} {s : State}

/-- A command accepted in an idle state completes with the result that `Exec` gives for its snapshot, and writes its
bytes to OUT from index 0 (R112, R115, R117). -/
theorem command_completes (hop : opOf i = some op) (h0 : op ≠ 0) (hidle : s.busy = false) {out : List Byte}
    {outLen fullg : Nat} {sizes : GroupSizes} {resid : Word}
    (hr : engineExec s.inCap ⟨op, s.width, s.len⟩ s.inBuf = .ok out outLen sizes fullg resid) :
    CompletesWith i s fun u =>
      Completed s u outLen (resWord sizes) fullg resid ∧ u.outBuf = Memory.writeFrom s.outBuf 0 out := by
  have completed := completed_completeOk (s := acknowledge (acceptCommand op s)) rfl out outLen (resWord sizes) fullg
    resid
  refine ⟨_, _, exec_command_accepted hop h0 hidle, (engineTurn_busy rfl).trans (completion_eq_ok hr), ?_, by simp⟩
  -- `Kept` is about fields that the accept leaves as they are in `s`.
  exact { completed with kept := { completed.kept with } }

/-- The width test of R133 comes before every use of LEN and IN. -/
theorem command_fails_of_illegal_width (hop : opOf i = some op) (h0 : op ≠ 0) (h5 : op.toNat < 5)
    (hidle : s.busy = false) (hw : ¬ LegalWidth s.width) : CompletesWith i s fun u => Failed s u 1 0 0 0 :=
  command_fails hop h0 hidle (by decide) (engineExec_width h0 h5 (legalWidth_eq_false hw))

end

/-- Settles O30: each of the four has an OP below 5, so `command_fails_of_illegal_width` applies. -/
theorem illegalWidthCompletesWithInvalidWidth : Obligations.IllegalWidthCompletesWithInvalidWidth := by
  rintro i s (rfl | rfl | rfl | rfl) hidle hw
  · exact command_fails_of_illegal_width (op := 1) rfl (by decide) (by decide) hidle hw
  · exact command_fails_of_illegal_width (op := 2) rfl (by decide) (by decide) hidle hw
  · exact command_fails_of_illegal_width (op := 3) rfl (by decide) (by decide) hidle hw
  · exact command_fails_of_illegal_width (op := 4) rfl (by decide) (by decide) hidle hw

/-- Settles O31, by the width: `engineExec_gsz` at a legal one, `command_fails_of_illegal_width` at any other. -/
theorem gszCompletesWithTheGroupConstants : Obligations.GszCompletesWithTheGroupConstants := by
  intro s hidle
  by_cases hw : LegalWidth s.width
  · obtain ⟨t, u, accept, complete, completed, hout⟩ := command_completes (i := .gsz) rfl (by decide) hidle
      (engineExec_gsz (snap := ⟨1, s.width, s.len⟩) rfl (legalWidth_iff.mpr hw))
    obtain ⟨-, -, hres⟩ := groupConsts_table hw.1 hw.2
    exact ⟨t, u, accept, complete, hout, fun _ => hres ▸ completed, fun h => absurd hw h⟩
  · obtain ⟨t, u, accept, complete, failed⟩ :=
      command_fails_of_illegal_width (i := .gsz) rfl (by decide) (by decide) hidle hw
    exact ⟨t, u, accept, complete, failed.outBuf, fun h => absurd h hw, fun _ => failed⟩

/-- The commands that read IN have the OPs 2, 3 and 4 (R92). -/
theorem opOf_element_command {i : Instr} (h : i = .enc ∨ i = .dec ∨ i = .chk) :
    ∃ op, opOf i = some op ∧ op ≠ 0 ∧ (op = 2 ∨ op = 3 ∨ op = 4) := by
  obtain rfl | rfl | rfl := h
  · exact ⟨2, rfl, by decide, .inl rfl⟩
  · exact ⟨3, rfl, by decide, .inr (.inl rfl)⟩
  · exact ⟨4, rfl, by decide, .inr (.inr rfl)⟩

/-- Settles O32: the length test comes before every use of IN (`engineExec_length`). -/
theorem tooLongInputCompletesWithBadLength : Obligations.TooLongInputCompletesWithBadLength := by
  intro i s hi hidle hw hlen
  obtain ⟨op, hop, h0, element⟩ := opOf_element_command hi
  exact command_fails hop h0 hidle (by decide) (engineExec_length element (legalWidth_iff.mpr hw) hlen)

/-! ### The overhang -/

/-- `Overhang` is the sum of R178. -/
theorem overhang_eq_ovhValue (syms : List Byte) (n : Nat) : overhang syms n = ovhValue syms n := by
  rw [overhang, windowValue_eq_sum, overhangBits_eq, decLen_outLen]
  simp only [symbolBit_eq_getD]
  rfl

/-- The overhang value fits in its bit count (R179). -/
theorem ovhValue_lt (syms : List Byte) (n : Nat) : ovhValue syms n < 2 ^ ovhCount n syms.length := by
  rw [← overhang_eq_ovhValue, ← overhangBits_eq]
  exact windowValue_lt _ _ _

theorem ovhCount_le (n m : Nat) : ovhCount n m ≤ 7 := Nat.le_of_lt_succ (Nat.mod_lt _ (by decide))

/-- Without overhang bits the overhang value is 0 (R178). -/
theorem ovhCount_pos {syms : List Byte} {n : Nat} (h : ovhValue syms n ≠ 0) : 1 ≤ ovhCount n syms.length := by
  refine Nat.pos_of_ne_zero fun h0 => h ?_
  have := ovhValue_lt syms n
  rwa [h0, Nat.pow_zero, Nat.lt_one_iff] at this

theorem firstInvalid_eq_none {n : Nat} {syms : List Byte} (h : ValidSymbols n syms) : firstInvalid n syms = none := by
  rw [firstInvalid, List.find?_eq_none]
  intro p hp
  simpa [validSymbol] using h p.1 (List.fst_mem_of_mem_zipIdx hp)

/-- Valid symbols with a nonzero overhang fail the canonical test, whether or not OUT is to be written (R179). -/
theorem decExec_overhang {n : Nat} {syms : List Byte} (hvalid : ValidSymbols n syms) (h : ovhValue syms n ≠ 0)
    (write : Bool) :
    decExec n syms write = .err 3 (BitVec.ofNat 8 (ovhValue syms n)) (ovhCount n syms.length) 0 := by
  simp only [decExec, firstInvalid_eq_none hvalid, overhang_eq_ovhValue, overhangBits_eq]
  exact if_pos h

/-- On written input that fits in IN, at a legal width, a command's result is that of its function on the input
(R115). -/
theorem engineExec_written {s : State} {bs : List Byte} {op : BitVec 4} (hop : op = 2 ∨ op = 3 ∨ op = 4)
    (hw : LegalWidth s.width) (hlen : s.len.toNat ≤ s.inCap) (hin : InHolds s bs) :
    engineExec s.inCap ⟨op, s.width, s.len⟩ s.inBuf
      = if op = 2 then encExec s.width.toNat bs
        else if op = 3 then decExec s.width.toNat bs true else decExec s.width.toNat bs false := by
  obtain ⟨written, elements⟩ := Memory.elements_eq hin.bytes
  have passes := engineExec_elements (snap := ⟨op, s.width, s.len⟩) (inBuf := s.inBuf) hop
    (legalWidth_iff.mpr hw) hlen
  exact passes.trans (hin.length ▸ execElements_written op s.width.toNat written elements)

/-- DEC and CHK of written input that fits in IN, at a legal width, fail with the error of their function, which does
not depend on whether OUT is to be written (R170, R171). -/
theorem decode_command_fails {i : Instr} {s : State} {syms : List Byte} (hi : i = .dec ∨ i = .chk)
    (hidle : s.busy = false) (hw : LegalWidth s.width) (hlen : s.len.toNat ≤ s.inCap) (hin : InHolds s syms)
    {code : BitVec 4} {value : BitVec 8} {ovhbits index : Nat} (hbits : ovhbits < 16)
    (hr : ∀ write, decExec s.width.toNat syms write = .err code value ovhbits index) :
    CompletesWith i s fun u => Failed s u code value.toNat ovhbits index := by
  obtain rfl | rfl := hi
  · exact command_fails (op := 3) rfl (by decide) hidle hbits
      ((engineExec_written (.inr (.inl rfl)) hw hlen hin).trans (hr true))
  · exact command_fails (op := 4) rfl (by decide) hidle hbits
      ((engineExec_written (.inr (.inr rfl)) hw hlen hin).trans (hr false))

/-- Settles O37: `decExec_overhang` for the completion, and the overhang value and its bit count fit their fields of
ERR_INFO. -/
theorem nonzeroOverhangIsReported : Obligations.NonzeroOverhangIsReported := by
  intro i s syms hi hidle hw hlen hin hvalid hovh
  have bits_le : ovhCount s.width.toNat syms.length ≤ 7 := ovhCount_le _ _
  have value_lt := ovhValue_lt syms s.width.toNat
  have value : (BitVec.ofNat 8 (ovhValue syms s.width.toNat)).toNat = ovhValue syms s.width.toNat :=
    Nat.mod_eq_of_lt (value_lt.trans_le (Nat.pow_le_pow_right (by decide) (bits_le.trans (by decide))))
  have fails := decode_command_fails hi hidle hw hlen hin (by omega) (decExec_overhang hvalid hovh)
  exact ⟨value ▸ fails, value_lt, ovhCount_pos hovh, bits_le⟩

end Sys2Proof.Machine

/-! Proofs of the family 42_encoder: the shifter against the symbols of R151, the results of ENC and DEC on written
input, and the round trip. -/

namespace Sys2Proof.Machine

open Sys2Proof.Rules

/-! ### Windows of byte streams -/

/-- A window is its first bits followed by the rest. -/
theorem windowValue_add (bit : Nat → Bool) (start a b : Nat) :
    windowValue bit start (a + b) = windowValue bit start a * 2 ^ b + windowValue bit (start + a) b := by
  induction b with
  | zero => simp
  | succ b ih =>
    rw [← Nat.add_assoc, windowValue_succ, windowValue_succ, ih, Nat.pow_succ, Nat.add_assoc start a b]
    ring

/-- A window of 0 bits only is 0. -/
theorem windowValue_of_false {bit : Nat → Bool} {start width : Nat}
    (h : ∀ j, j < width → bit (start + j) = false) : windowValue bit start width = 0 := by
  induction width with
  | zero => rfl
  | succ width ih => rw [windowValue_succ, ih fun j hj => h j (by omega), h width (by omega)]; rfl

/-- The bits of a window are those of the stream, the first the most significant. -/
theorem testBit_windowValue (bit : Nat → Bool) (start : Nat) {width j : Nat} (hj : j < width) :
    (windowValue bit start width).testBit (width - 1 - j) = bit (start + j) := by
  induction width with
  | zero => omega
  | succ width ih =>
    rw [windowValue_succ]
    obtain rfl | hlt : j = width ∨ j < width := by omega
    · cases h : bit (start + j) <;> simp [Nat.testBit_zero]
    · have position : width + 1 - 1 - j = width - 1 - j + 1 := by omega
      have high : (2 * windowValue bit start width + (bit (start + width)).toNat) / 2
          = windowValue bit start width := by
        have := Bool.toNat_lt (bit (start + width))
        omega
      rw [position, Nat.testBit_succ, high, ih hlt]

/-- A window inside byte `pos` is a field of that byte, read as 0 beyond the end (R14, R156). -/
theorem windowValue_byteBit (bs : List Byte) (pos : Nat) {off width : Nat} (h : off + width ≤ 8) :
    windowValue (byteBit bs) (8 * pos + off) width
      = ((bs[pos]?.getD 0).toNat >>> (8 - off - width)) % 2 ^ width := by
  induction width with
  | zero => simp [Nat.mod_one]
  | succ width ih =>
    have index : (8 * pos + off + width) / 8 = pos := by omega
    have place : 7 - (8 * pos + off + width) % 8 = 8 - off - (width + 1) := by omega
    have shift : 8 - off - width = 8 - off - (width + 1) + 1 := by omega
    rw [windowValue_succ, ih (by omega), byteBit_eq_getD, index, place, List.getD_eq_getElem?_getD, shift,
      Nat.shiftRight_add, Nat.shiftRight_one, Nat.pow_succ', Nat.mod_mul, Nat.add_comm, BitVec.getLsbD,
      Nat.toNat_testBit, Nat.shiftRight_eq_div_pow]

/-- Beyond the last byte the stream is 0 (R14). -/
theorem byteBit_beyond {bs : List Byte} {k : Nat} (h : 8 * bs.length ≤ k) : byteBit bs k = false := by
  have : bs.length ≤ k / 8 := by omega
  simp [byteBit, this]

/-- The model's symbol is the sum of R151. -/
theorem symbolAt_eq_symbol (bs : List Byte) (n i : Nat) : symbolAt bs n i = symbol bs n i := by
  rw [symbolAt, windowValue_eq_sum]
  simp only [byteBit_eq_getD]
  rfl

/-! ### The shifter -/

/-- The loop invariant of the shifter's run on `bs` at width `n`: it has consumed the stream bits of `k` whole symbols
and the first `cw` bits of symbol `k`, which `carry` holds (R156 to R158). -/
structure Shifter.Tracks (n : Nat) (bs : List Byte) (sh : Shifter) : Prop where
  consumed : 8 * sh.pos.toNat + sh.off.toNat = sh.k.toNat * n + sh.cw.toNat
  off_lt   : sh.off.toNat < 8
  cw_lt    : sh.cw.toNat < n
  carry    : sh.carry.toNat = windowValue (byteBit bs) (sh.k.toNat * n) sh.cw.toNat

theorem Shifter.start_tracks {n : Nat} (hn : 1 ≤ n) (bs : List Byte) : Shifter.start.Tracks n bs where
  consumed := by simp [Shifter.start]
  off_lt   := by decide
  cw_lt    := hn
  carry    := rfl

section
variable {n : Nat} {bs : List Byte} {sh : Shifter}

/-- The carry with the next `width` bits of the current byte appended is the first `cw + width` bits of symbol `k`. -/
theorem Shifter.Tracks.append_bits (h : sh.Tracks n bs) {width : Nat} (hw : sh.off.toNat + width ≤ 8) :
    (sh.carry.toNat <<< width) ||| (shifterByte bs sh >>> (8 - sh.off.toNat - width)) % 2 ^ width
      = windowValue (byteBit bs) (sh.k.toNat * n) (sh.cw.toNat + width) := by
  rw [windowValue_add, ← h.consumed, windowValue_byteBit bs _ hw, ← h.carry, shifterByte,
    ← Nat.shiftLeft_add_eq_or_of_lt (Nat.mod_lt _ (Nat.two_pow_pos width)), Nat.shiftLeft_eq]

/-- A symbol starts before the end of the stream (R151). -/
theorem symbol_start_lt {n l k : Nat} (hn : 1 ≤ n) (hk : k < encCount n l) : k * n < 8 * l := by
  obtain ⟨-, padding⟩ := (eq_encCount_iff hn l _).mp rfl
  have := Nat.mul_le_mul_right n (Nat.succ_le_of_lt hk)
  rw [Nat.succ_mul] at this
  omega

/-- While symbols remain, neither `pos` nor `k` wraps when it is counted up (R44, R160). -/
theorem Shifter.Tracks.no_wrap (h : sh.Tracks n bs) (hn7 : n ≤ 7) (hbs : bs.length ≤ 65536)
    (hk : sh.k.toNat < encCount n bs.length) :
    (sh.pos + 1).toNat = sh.pos.toNat + 1 ∧ (sh.k + 1).toNat = sh.k.toNat + 1 := by
  obtain ⟨consumed, off_lt, cw_lt, -⟩ := h
  have start_lt := symbol_start_lt (by omega) hk
  have k_le := Nat.le_mul_of_pos_right sh.k.toNat (show 0 < n by omega)
  exact ⟨by bv_omega, by bv_omega⟩

/-- Where the current byte has the bits the symbol lacks, the step emits the symbol (R157). -/
theorem shifterStep_emit (h : sh.Tracks n bs) (hn7 : n ≤ 7) (hbs : bs.length ≤ 65536)
    (hk : sh.k.toNat < encCount n bs.length) (fits : n - sh.cw.toNat ≤ 8 - sh.off.toNat) :
    ∃ sh', shifterStep n bs sh = (sh', some (BitVec.ofNat 8 (symbolAt bs n sh.k.toNat)))
      ∧ sh'.Tracks n bs ∧ sh'.k.toNat = sh.k.toNat + 1 ∧ sh.pos.toNat ≤ sh'.pos.toNat := by
  obtain ⟨pos_succ, k_succ⟩ := h.no_wrap hn7 hbs hk
  have off_le : sh.off.toNat + (n - sh.cw.toNat) ≤ 8 := by have := h.off_lt; omega
  have symbol := h.append_bits off_le
  rw [Nat.add_sub_cancel' h.cw_lt.le] at symbol
  have step : shifterStep n bs sh = (_, _) := if_pos fits
  rw [symbol] at step
  refine ⟨_, step, ?_, k_succ, ?_⟩
  · obtain ⟨consumed, off_lt, cw_lt, -⟩ := h
    refine ⟨?_, ?_, by simp; omega, by simp⟩
    · simp only [k_succ, Nat.succ_mul]
      split <;> simp <;> omega
    · dsimp only
      split
      · simp
      · simp; omega
  · dsimp only
    split <;> omega

/-- Where the symbol straddles the byte boundary, the step carries the rest of the byte, which is a byte of the input,
and emits nothing (R158). -/
theorem shifterStep_carry (h : sh.Tracks n bs) (hn7 : n ≤ 7) (hbs : bs.length ≤ 65536)
    (hk : sh.k.toNat < encCount n bs.length) (straddles : ¬ n - sh.cw.toNat ≤ 8 - sh.off.toNat) :
    ∃ sh', shifterStep n bs sh = (sh', none)
      ∧ sh'.Tracks n bs ∧ sh'.k = sh.k ∧ sh'.pos.toNat = sh.pos.toNat + 1 ∧ sh'.pos.toNat ≤ bs.length := by
  obtain ⟨pos_succ, -⟩ := h.no_wrap hn7 hbs hk
  have start_lt := symbol_start_lt (by omega) hk
  have carried := h.append_bits (width := 8 - sh.off.toNat) (by have := h.off_lt; omega)
  rw [Nat.sub_self, Nat.shiftRight_zero] at carried
  have step : shifterStep n bs sh = (_, _) := if_neg straddles
  rw [carried] at step
  obtain ⟨consumed, off_lt, cw_lt, -⟩ := h
  have width_lt : sh.cw.toNat + (8 - sh.off.toNat) < 2 ^ 3 := by omega
  have value_lt : windowValue (byteBit bs) (sh.k.toNat * n) (sh.cw.toNat + (8 - sh.off.toNat)) < 2 ^ 7 :=
    (windowValue_lt _ _ _).trans_le (Nat.pow_le_pow_right (by decide) (by omega))
  refine ⟨_, step, ⟨?_, by simp, ?_, ?_⟩, rfl, pos_succ, ?_⟩
  · simp; omega
  · simp; omega
  · simp only [BitVec.toNat_ofNat, Nat.mod_eq_of_lt width_lt, Nat.mod_eq_of_lt value_lt]
  · rw [pos_succ]; omega

/-- The run emits the symbols that remain: each step emits the next one or takes one more byte of the input (R160). -/
theorem shifterRun_emits (hn7 : n ≤ 7) (hbs : bs.length ≤ 65536) (fuel : Nat) (h : sh.Tracks n bs)
    (hfuel : encCount n bs.length - sh.k.toNat + (bs.length - sh.pos.toNat) ≤ fuel) :
    (shifterRun n bs (encCount n bs.length) fuel sh).2
      = (List.range' sh.k.toNat (encCount n bs.length - sh.k.toNat)).map fun i => BitVec.ofNat 8 (symbolAt bs n i) := by
  induction fuel generalizing sh with
  | zero =>
    rw [show encCount n bs.length - sh.k.toNat = 0 by omega]
    rfl
  | succ fuel ih =>
    rw [shifterRun]
    split
    next hk =>
      by_cases fits : n - sh.cw.toNat ≤ 8 - sh.off.toNat
      · obtain ⟨sh', step, tracks, k_succ, pos_le⟩ := shifterStep_emit h hn7 hbs hk fits
        have remaining : encCount n bs.length - sh.k.toNat = encCount n bs.length - sh'.k.toNat + 1 := by omega
        rw [step, remaining, List.range'_succ, ← k_succ, List.map_cons, ← ih tracks (by omega)]
        rfl
      · obtain ⟨sh', step, tracks, k_eq, pos_succ, pos_le⟩ := shifterStep_carry h hn7 hbs hk fits
        rw [step, ← k_eq, ← ih tracks (by rw [k_eq]; omega)]
        rfl
    next hk =>
      rw [show encCount n bs.length - sh.k.toNat = 0 by omega]
      rfl

end

/-- Settles O56: `shifterRun_emits` from the start of the run, whose fuel is what R160 counts. -/
theorem shifterEmitsTheSymbols : Obligations.ShifterEmitsTheSymbols := by
  intro n bs hn hn7 hbs
  have run := shifterRun_emits hn7 hbs _ (Shifter.start_tracks hn bs) (Nat.le_refl _)
  simp only [symbolAt_eq_symbol] at run
  simp only [shifterEncode, encLen_outLen hn]
  rw [List.range_eq_range']
  exact run

/-! ### The result of ENC -/

/-- The RESID word of length quantities in their ranges (R36). -/
theorem residWord_eq_residOf {count : Nat} {l : Lengths} (h : l.Within count) : residWord l = residOf l.rin l.rout := by
  obtain ⟨-, -, rin_lt, rout_le⟩ := h
  rw [residWord, packResid, residOf, Nat.mod_eq_of_lt (by omega : l.rin < 2 ^ 8),
    Nat.mod_eq_of_lt (by omega : l.rout < 2 ^ 8)]
  by_cases h0 : l.rin = 0
  · simp [h0]
  · simp [h0, bne_iff_ne.mpr h0]

theorem residWord_encLen {n : Nat} (hn : 1 ≤ n) (hn7 : n ≤ 7) (l : Nat) : residWord (encLen n l) = encResid n l := by
  obtain ⟨octets, -⟩ := groupConsts_table hn hn7
  rw [residWord_eq_residOf (encLen_within l hn hn7), encLen_rout, octets, encResid, ← octets]
  rfl

theorem residWord_decLen {n : Nat} (hn : 1 ≤ n) (hn7 : n ≤ 7) (m : Nat) : residWord (decLen n m) = decResid n m := by
  obtain ⟨-, symbols, -⟩ := groupConsts_table hn hn7
  rw [residWord_eq_residOf (decLen_within m hn hn7), decResid, ← symbols]
  rfl

/-- ENC of written input that fits in IN, at a legal width, completes with the counts of R135 and writes `encodeBytes`
to OUT from index 0 (R150). -/
theorem enc_completes {s : State} {bs : List Byte} (hidle : s.busy = false) (hw : LegalWidth s.width)
    (hlen : s.len.toNat ≤ s.inCap) (hin : InHolds s bs) :
    CompletesWith .enc s fun u =>
      Completed s u (encCount s.width.toNat bs.length) (resTable s.width.toNat) (bs.length / ogs s.width.toNat)
          (encResid s.width.toNat bs.length)
        ∧ u.outBuf = Memory.writeFrom s.outBuf 0 (encodeBytes s.width.toNat bs) := by
  obtain ⟨octets, -, res⟩ := groupConsts_table hw.1 hw.2
  rw [← encLen_outLen hw.1, ← octets, ← res, ← residWord_encLen hw.1 hw.2]
  exact command_completes (i := .enc) (op := 2) rfl (by decide) hidle (engineExec_written (.inl rfl) hw hlen hin)

/-- Settles O33: `enc_completes`, with the symbols of `encodeBytes` as the sums of R151. -/
theorem encWritesTheSymbolsOfItsInput : Obligations.EncWritesTheSymbolsOfItsInput := by
  intro s bs hidle hw hlen _ hin
  obtain ⟨t, u, accept, complete, completed, hout⟩ := enc_completes hidle hw hlen hin
  refine ⟨t, u, accept, complete, completed, fun i => ?_, fun i => ?_⟩
  · rw [hout, Memory.read?_writeFrom, length_encodeBytes, Nat.zero_add, Nat.sub_zero, getElem?_encodeBytes,
      encLen_outLen hw.1, symbolAt_eq_symbol]
    by_cases hi : i < encCount s.width.toNat bs.length <;> simp [hi]
  · rw [← symbolAt_eq_symbol]
    exact windowValue_lt _ _ _

/-! ### The result of DEC -/

/-- Valid symbols with a zero overhang pass both checks (R170). -/
theorem decExec_ok {n : Nat} {syms : List Byte} (hvalid : ValidSymbols n syms) (h : ovhValue syms n = 0)
    (write : Bool) :
    decExec n syms write = .ok (if write then decodeSymbols n syms else []) (decLen n syms.length).outLen
      (groupConsts n) (decLen n syms.length).fullGroups (residWord (decLen n syms.length)) := by
  simp only [decExec, firstInvalid_eq_none hvalid, overhang_eq_ovhValue]
  exact if_neg (not_not_intro h)

/-- DEC of written, valid symbols with a zero overhang that fit in IN, at a legal width, completes with the counts of
R136 and writes `decodeSymbols` to OUT from index 0 (R170). -/
theorem dec_completes {s : State} {syms : List Byte} (hidle : s.busy = false) (hw : LegalWidth s.width)
    (hlen : s.len.toNat ≤ s.inCap) (hin : InHolds s syms) (hvalid : ValidSymbols s.width.toNat syms)
    (hovh : ovhValue syms s.width.toNat = 0) :
    CompletesWith .dec s fun u =>
      Completed s u (decCount s.width.toNat syms.length) (resTable s.width.toNat) (syms.length / sgs s.width.toNat)
          (decResid s.width.toNat syms.length)
        ∧ u.outBuf = Memory.writeFrom s.outBuf 0 (decodeSymbols s.width.toNat syms) := by
  obtain ⟨-, symbols, res⟩ := groupConsts_table hw.1 hw.2
  rw [← decLen_outLen, ← symbols, ← res, ← residWord_decLen hw.1 hw.2]
  exact command_completes (i := .dec) (op := 3) rfl (by decide) hidle
    ((engineExec_written (.inr (.inl rfl)) hw hlen hin).trans (decExec_ok hvalid hovh true))

/-! ### Empty input -/

/-- No unit is needed to cover nothing (R13). -/
theorem ceilDiv_zero {b : Nat} (hb : 1 ≤ b) : ceilDiv 0 b = 0 :=
  Nat.le_zero.mp (ceilDiv_le_of_le_mul hb (Nat.zero_le _))

theorem encLen_zero {n : Nat} (hn : 1 ≤ n) : encLen n 0 = ⟨0, 0, 0, 0, 0⟩ := by
  obtain ⟨octets_pos, -⟩ := groupConsts_bounds hn
  simp [encLen, ceilDiv_zero hn, ceilDiv_zero octets_pos]

theorem decLen_zero {n : Nat} (hn : 1 ≤ n) : decLen n 0 = ⟨0, 0, 0, 0, 0⟩ := by
  obtain ⟨-, -, symbols_pos, -⟩ := groupConsts_bounds hn
  simp [decLen, ceilDiv_zero symbols_pos]

theorem encExec_nil {n : Nat} (hn : 1 ≤ n) : encExec n [] = .ok [] 0 (groupConsts n) 0 0 := by
  simp only [encExec, encodeBytes, List.length_nil, encLen_zero hn]
  rfl

theorem decExec_nil {n : Nat} (hn : 1 ≤ n) (write : Bool) : decExec n [] write = .ok [] 0 (groupConsts n) 0 0 := by
  have valid : ValidSymbols n [] := fun _ h => absurd h List.not_mem_nil
  have canonical : ovhValue [] n = 0 := by simp [ovhValue, ovhCount]
  simp only [decExec_ok valid canonical, decodeSymbols, List.length_nil, decLen_zero hn]
  cases write <;> rfl

/-- With LEN = 0 the three commands that read IN give an empty result at a legal width (R154, R176). -/
theorem engineExec_empty {s : State} {op : BitVec 4} (hop : op = 2 ∨ op = 3 ∨ op = 4) (hw : LegalWidth s.width)
    (hlen : s.len = 0) :
    engineExec s.inCap ⟨op, s.width, s.len⟩ s.inBuf = .ok [] 0 (groupConsts s.width.toNat) 0 0 := by
  have holds : InHolds s [] := ⟨by simp [hlen], fun i hi => absurd hi (Nat.not_lt_zero i)⟩
  rw [engineExec_written hop hw (by simp [hlen]) holds, encExec_nil hw.1, decExec_nil hw.1, decExec_nil hw.1, ite_self,
    ite_self]

/-- Settles O39, by the width: `engineExec_empty` at a legal one, `command_fails_of_illegal_width` at any other. -/
theorem emptyInputGivesEmptyOutput : Obligations.EmptyInputGivesEmptyOutput := by
  intro i s hi hidle hlen
  obtain ⟨op, hop, h0, element⟩ := opOf_element_command hi
  by_cases hw : LegalWidth s.width
  · obtain ⟨t, u, accept, complete, completed, hout⟩ :=
      command_completes hop h0 hidle (engineExec_empty element hw hlen)
    obtain ⟨-, -, hres⟩ := groupConsts_table hw.1 hw.2
    exact ⟨t, u, accept, complete, hout, fun _ => hres ▸ completed, fun h => absurd hw h⟩
  · have h5 : op.toNat < 5 := by obtain rfl | rfl | rfl := element <;> decide
    obtain ⟨t, u, accept, complete, failed⟩ := command_fails_of_illegal_width hop h0 h5 hidle hw
    exact ⟨t, u, accept, complete, failed.outBuf, fun h => absurd h hw, fun _ => failed⟩

/-! ### The round trip -/

/-- A completion's output reads back from index 0 (R117). -/
theorem Memory.read?_writeFrom_output {out : List Byte} {i : Nat} (hi : i < out.length) (m : Memory) :
    read? (writeFrom m 0 out) i = out[i]? := by
  rw [read?_writeFrom, Nat.zero_add, Nat.sub_zero, if_pos ⟨Nat.zero_le i, hi⟩]

section
variable {n : Nat}

/-- The symbols of a byte sequence carry its stream, bit for bit (R14, R151). -/
theorem symbolBit_encodeBytes (hn : 1 ≤ n) (hn7 : n ≤ 7) (bs : List Byte) :
    symbolBit (encodeBytes n bs) n = byteBit bs := by
  funext k
  have offset_lt : k % n < n := Nat.mod_lt k hn
  rw [symbolBit, getElem?_encodeBytes, encLen_outLen hn]
  by_cases hk : k / n < encCount n bs.length
  · have place_lt : n - 1 - k % n < 8 := by omega
    simp only [if_pos hk, symbolAt, BitVec.getLsbD_ofNat, place_lt, decide_true, Bool.true_and]
    rw [testBit_windowValue _ _ offset_lt, Nat.div_add_mod']
  · obtain ⟨covers, -⟩ := (eq_encCount_iff hn bs.length _).mp rfl
    have whole := Nat.mul_le_mul_right n (Nat.le_of_not_lt hk)
    rw [if_neg hk, byteBit_beyond (covers.trans (whole.trans (Nat.div_mul_le_self k n)))]

/-- Every symbol of a byte sequence is below `2^n` (R151). -/
theorem validSymbols_encodeBytes (n : Nat) (bs : List Byte) : ValidSymbols n (encodeBytes n bs) := by
  intro s hs
  obtain ⟨i, -, rfl⟩ := List.mem_map.mp hs
  exact (Nat.mod_le _ _).trans_lt (windowValue_lt _ _ _)

theorem decLen_outLen_encodeBytes (hn : 1 ≤ n) (hn7 : n ≤ 7) (bs : List Byte) :
    (decLen n (encodeBytes n bs).length).outLen = bs.length := by
  rw [decLen_outLen, length_encodeBytes, encLen_outLen hn, decCount_encCount hn hn7]

/-- The overhang of the symbols of a byte sequence is its zero padding (R164). -/
theorem ovhValue_encodeBytes (hn : 1 ≤ n) (hn7 : n ≤ 7) (bs : List Byte) : ovhValue (encodeBytes n bs) n = 0 := by
  rw [← overhang_eq_ovhValue, overhang, symbolBit_encodeBytes hn hn7, decLen_outLen_encodeBytes hn hn7]
  exact windowValue_of_false fun j _ => byteBit_beyond (Nat.le_add_right _ j)

/-- Decoding the symbols of a byte sequence gives its bytes (R164). -/
theorem decodeSymbols_encodeBytes (hn : 1 ≤ n) (hn7 : n ≤ 7) (bs : List Byte) :
    decodeSymbols n (encodeBytes n bs) = bs := by
  refine List.ext_getElem? fun i => ?_
  rw [getElem?_decodeSymbols, decLen_outLen_encodeBytes hn hn7]
  by_cases hi : i < bs.length
  · have octet : windowValue (byteBit bs) (8 * i) 8 = (bs[i]?.getD 0).toNat :=
      (windowValue_byteBit bs i (off := 0) (by decide)).trans (Nat.mod_eq_of_lt (BitVec.isLt _))
    simp [decodedByte, symbolBit_encodeBytes hn hn7, octet, hi]
  · simp [hi]

end

/-- Settles O58: the symbols that ENC writes pass both checks of DEC, and `decodeSymbols_encodeBytes`. -/
theorem decOfEncReturnsTheBytes : Obligations.DecOfEncReturnsTheBytes := by
  intro s bs hidle hw hlen hcap hfits hin
  obtain ⟨t, u, accept, complete, encoded, hout⟩ := enc_completes hidle hw hlen hin
  have hsyms : (encodeBytes s.width.toNat bs).length = encCount s.width.toNat bs.length := by
    rw [length_encodeBytes, encLen_outLen hw.1]
  have houtLen : u.outLen.toNat = (encodeBytes s.width.toNat bs).length := by
    rw [encoded.outLen, hsyms]
    exact Nat.mod_eq_of_lt (by omega)
  refine ⟨t, u, accept, complete, encoded.ecode, fun v hvidle hvw hvcap hvlen hvin => ?_⟩
  have holds : InHolds v (encodeBytes s.width.toNat bs) := by
    refine ⟨by rw [hvlen, houtLen], fun i hi => ?_⟩
    rw [hvin i (houtLen ▸ hi), hout, Memory.read?_writeFrom_output hi]
  have hvfits : v.len.toNat ≤ v.inCap := by rwa [hvlen, houtLen, hsyms, hvcap]
  rw [← hvw] at hw holds
  obtain ⟨t', u', accept', complete', decoded, hout'⟩ := dec_completes hvidle hw hvfits holds
    (validSymbols_encodeBytes _ bs) (ovhValue_encodeBytes hw.1 hw.2 bs)
  refine ⟨t', u', accept', complete', decoded.ecode, ?_, fun i hi => ?_⟩
  · rw [decoded.outLen, ← decLen_outLen, decLen_outLen_encodeBytes hw.1 hw.2]
    have := hin.length
    exact Nat.mod_eq_of_lt (by omega)
  · rw [hout', decodeSymbols_encodeBytes hw.1 hw.2, Memory.read?_writeFrom_output hi]

end Sys2Proof.Machine

/-! Proofs of the family 43_decoder: the packer against the bytes of R173 and the overhang of R178, what DEC and CHK
complete with, and the encoding of what symbols decode to. -/

namespace Sys2Proof.Machine

open Sys2Proof.Rules

/-! ### Windows of symbol streams -/

/-- The first bits of a window are its high bits. -/
theorem windowValue_shiftRight (bit : Nat → Bool) (start a b : Nat) :
    windowValue bit start (a + b) >>> b = windowValue bit start a := by
  rw [windowValue_add, Nat.shiftRight_eq_div_pow, Nat.add_comm, Nat.add_mul_div_right _ _ (Nat.two_pow_pos b),
    Nat.div_eq_of_lt (windowValue_lt _ _ _), Nat.zero_add]

/-- The last bits of a window are its low bits. -/
theorem windowValue_mod (bit : Nat → Bool) (start a b : Nat) :
    windowValue bit start (a + b) % 2 ^ b = windowValue bit (start + a) b := by
  rw [windowValue_add, Nat.mul_add_mod_self_right, Nat.mod_eq_of_lt (windowValue_lt _ _ _)]

/-- A zero window has 0 bits only. -/
theorem bit_of_windowValue_eq_zero {bit : Nat → Bool} {start width j : Nat} (h : windowValue bit start width = 0)
    (hj : j < width) : bit (start + j) = false := by
  rw [← testBit_windowValue bit start hj, h, Nat.zero_testBit]

/-- Beyond the last symbol the stream is 0 (R14). -/
theorem symbolBit_beyond {syms : List Byte} {n k : Nat} (hn : 1 ≤ n) (h : syms.length * n ≤ k) :
    symbolBit syms n k = false := by
  have : syms.length ≤ k / n := (Nat.le_div_iff_mul_le hn).mpr h
  simp [symbolBit, this]

/-- The `n` stream bits of a valid symbol are its value (R14, R172). -/
theorem windowValue_symbolBit {syms : List Byte} {n q : Nat} {s : Byte} (hs : syms[q]? = some s)
    (hvalid : s.toNat < 2 ^ n) : windowValue (symbolBit syms n) (q * n) n = s.toNat := by
  refine Nat.eq_of_testBit_eq fun i => ?_
  by_cases hi : i < n
  · have place : n - 1 - (n - 1 - i) = i := by omega
    have index : (q * n + (n - 1 - i)) / n = q := Nat.div_eq_of_lt_le (by omega) (by rw [Nat.succ_mul]; omega)
    have bit := testBit_windowValue (symbolBit syms n) (q * n) (show n - 1 - i < n by omega)
    rw [place] at bit
    rw [bit, symbolBit, index, hs, Nat.mul_add_mod_self_right, Nat.mod_eq_of_lt (by omega), place]
    rfl
  · have pow_le : 2 ^ n ≤ 2 ^ i := Nat.pow_le_pow_right (by decide) (Nat.le_of_not_lt hi)
    rw [Nat.testBit_lt_two_pow ((windowValue_lt _ _ _).trans_le pow_le),
      Nat.testBit_lt_two_pow (hvalid.trans_le pow_le)]

/-- The model's byte is the sum of R173. -/
theorem decodedByte_eq_octet (syms : List Byte) (n i : Nat) : decodedByte syms n i = octet syms n i := by
  rw [decodedByte, windowValue_eq_sum]
  simp only [symbolBit_eq_getD]
  rfl

/-! ### The packer -/

/-- The loop invariant of the packer's run on `syms` at width `n`, once it has emitted `out`: the bits of the `q`
symbols taken are the `j` bytes emitted and the `off` bits that `cur` holds (R181, R182). -/
structure Packer.Tracks (n : Nat) (syms : List Byte) (pk : Packer) (out : List Byte) : Prop where
  filled  : 8 * pk.j.toNat + pk.off.toNat = pk.q.toNat * n
  cur     : pk.cur.toNat = windowValue (symbolBit syms n) (8 * pk.j.toNat) pk.off.toNat
  emitted : out = (List.range pk.j.toNat).map fun i => BitVec.ofNat 8 (decodedByte syms n i)

theorem Packer.start_tracks (n : Nat) (syms : List Byte) : Packer.start.Tracks n syms [] where
  filled  := (Nat.zero_mul n).symm
  cur     := rfl
  emitted := rfl

section
variable {n : Nat} {syms : List Byte} {pk : Packer} {out : List Byte} {s : Byte}

/-- Fewer than 8 bits fit in `cur` (R45). -/
theorem toNat_ofNat_windowValue (bit : Nat → Bool) (start : Nat) {width : Nat} (h : width < 8) :
    (BitVec.ofNat 7 (windowValue bit start width)).toNat = windowValue bit start width :=
  Nat.mod_eq_of_lt ((windowValue_lt _ _ _).trans_le (Nat.pow_le_pow_right (by decide) (Nat.le_of_lt_succ h)))

/-- The bits of `cur` with the first `t` bits of the next symbol appended are the next `off + t` bits of the stream. -/
theorem Packer.Tracks.append_bits (h : pk.Tracks n syms out) (hs : syms[pk.q.toNat]? = some s)
    (hvalid : s.toNat < 2 ^ n) {t : Nat} (ht : t ≤ n) :
    (pk.cur.toNat <<< t) ||| (s.toNat >>> (n - t))
      = windowValue (symbolBit syms n) (8 * pk.j.toNat) (pk.off.toNat + t) := by
  have high := windowValue_shiftRight (symbolBit syms n) (pk.q.toNat * n) t (n - t)
  rw [Nat.add_sub_cancel' ht, windowValue_symbolBit hs hvalid] at high
  rw [windowValue_add, h.filled, high, ← h.cur, ← Nat.shiftLeft_add_eq_or_of_lt (windowValue_lt _ _ _),
    Nat.shiftLeft_eq]

/-- The bits of the next symbol after its first `t` are those of the stream after the next `off + t`. -/
theorem Packer.Tracks.rest_bits (h : pk.Tracks n syms out) (hs : syms[pk.q.toNat]? = some s)
    (hvalid : s.toNat < 2 ^ n) {t : Nat} (ht : t ≤ n) :
    s.toNat % 2 ^ (n - t) = windowValue (symbolBit syms n) (8 * pk.j.toNat + (pk.off.toNat + t)) (n - t) := by
  rw [← windowValue_symbolBit hs hvalid, ← Nat.add_assoc, h.filled, ← windowValue_mod, Nat.add_sub_cancel' ht]

/-- The byte that is full next is byte `j` of R173. -/
theorem Packer.Tracks.emit (h : pk.Tracks n syms out) (j_succ : (pk.j + 1).toNat = pk.j.toNat + 1) :
    out ++ [BitVec.ofNat 8 (windowValue (symbolBit syms n) (8 * pk.j.toNat) 8)]
      = (List.range (pk.j + 1).toNat).map fun i => BitVec.ofNat 8 (decodedByte syms n i) := by
  rw [j_succ, List.range_succ, List.map_append, ← h.emitted]
  rfl

/-- While symbols remain, neither `q` nor `j` wraps when it is counted up (R45, R180). -/
theorem Packer.Tracks.no_wrap (h : pk.Tracks n syms out) (hn7 : n ≤ 7) (hsyms : syms.length ≤ 65536)
    (hq : pk.q.toNat < syms.length) :
    (pk.q + 1).toNat = pk.q.toNat + 1 ∧ (pk.j + 1).toNat = pk.j.toNat + 1 := by
  have filled := h.filled
  have taken := Nat.mul_le_mul_left pk.q.toNat hn7
  exact ⟨by bv_omega, by bv_omega⟩

/-- A step takes the next symbol and keeps the invariant, in each of its three branches: the symbol fills the byte, fits
in it with room left, or splits (R181, R182). -/
theorem packerStep_tracks (hn7 : n ≤ 7) (hsyms : syms.length ≤ 65536) (h : pk.Tracks n syms out)
    (hs : syms[pk.q.toNat]? = some s) (hvalid : s.toNat < 2 ^ n) :
    (packerStep n s pk).1.Tracks n syms (out ++ (packerStep n s pk).2.toList)
      ∧ (packerStep n s pk).1.q.toNat = pk.q.toNat + 1 := by
  obtain ⟨hq, -⟩ := List.getElem?_eq_some_iff.mp hs
  obtain ⟨q_succ, j_succ⟩ := h.no_wrap hn7 hsyms hq
  have filled := h.filled
  have whole := h.append_bits hs hvalid (Nat.le_refl n)
  rw [Nat.sub_self, Nat.shiftRight_zero] at whole
  unfold packerStep
  dsimp only
  split_ifs with fits full
  case pos =>
    rw [whole, full]
    refine ⟨⟨?_, rfl, h.emit j_succ⟩, q_succ⟩
    show 8 * (pk.j + 1).toNat + 0 = (pk.q + 1).toNat * n
    rw [q_succ, j_succ, Nat.succ_mul pk.q.toNat]
    omega
  case neg =>
    have off_eq : (BitVec.ofNat 3 (pk.off.toNat + n)).toNat = pk.off.toNat + n := Nat.mod_eq_of_lt (by omega)
    rw [whole, Option.toList_none, List.append_nil]
    refine ⟨⟨?_, ?_, h.emitted⟩, q_succ⟩
    · simp only [q_succ, off_eq, Nat.succ_mul]
      omega
    · simp only [off_eq, toNat_ofNat_windowValue _ _ (show pk.off.toNat + n < 8 by omega)]
  case neg =>
    have room_le : 8 - pk.off.toNat ≤ n := by omega
    have room : pk.off.toNat + (8 - pk.off.toNat) = 8 := by have := pk.off.isLt; omega
    have byte := h.append_bits hs hvalid room_le
    have carry := h.rest_bits hs hvalid room_le
    rw [room] at byte carry
    have off_eq : (BitVec.ofNat 3 (n - (8 - pk.off.toNat))).toNat = n - (8 - pk.off.toNat) :=
      Nat.mod_eq_of_lt (by omega)
    rw [byte, carry]
    refine ⟨⟨?_, ?_, h.emit j_succ⟩, q_succ⟩
    · simp only [q_succ, j_succ, off_eq, Nat.succ_mul]
      omega
    · simp only [j_succ, off_eq, Nat.mul_succ,
        toNat_ofNat_windowValue _ _ (show n - (8 - pk.off.toNat) < 8 by omega)]

/-- The run over the symbols that remain keeps the invariant and takes them all. -/
theorem packerRun_tracks (hn7 : n ≤ 7) {taken rest : List Byte} (hsyms : (taken ++ rest).length ≤ 65536)
    (hvalid : ValidSymbols n rest) (h : pk.Tracks n (taken ++ rest) out) (hq : pk.q.toNat = taken.length) :
    (packerRun n rest pk).1.Tracks n (taken ++ rest) (out ++ (packerRun n rest pk).2)
      ∧ (packerRun n rest pk).1.q.toNat = (taken ++ rest).length := by
  induction rest generalizing taken pk out with
  | nil => simpa [packerRun, hq] using h
  | cons s rest ih =>
    have next : (taken ++ s :: rest)[pk.q.toNat]? = some s := by simp [hq]
    obtain ⟨s_lt, rest_valid⟩ := List.forall_mem_cons.mp hvalid
    obtain ⟨tracks, q_succ⟩ := packerStep_tracks hn7 hsyms h next s_lt
    rw [List.append_cons] at tracks hsyms ⊢
    have run := ih hsyms rest_valid tracks (by simp [q_succ, hq])
    rwa [List.append_assoc out] at run

/-- The end of the packer's run: it has taken every symbol, emitted the whole bytes, and holds the overhang (R183). -/
theorem packerRun_start (hn7 : n ≤ 7) (hsyms : syms.length ≤ 65536) (hvalid : ValidSymbols n syms) :
    (packerRun n syms Packer.start).2 = decodeSymbols n syms
      ∧ (packerRun n syms Packer.start).1.q.toNat = syms.length
      ∧ (packerRun n syms Packer.start).1.j.toNat = decCount n syms.length
      ∧ (packerRun n syms Packer.start).1.off.toNat = ovhCount n syms.length
      ∧ (packerRun n syms Packer.start).1.cur.toNat = ovhValue syms n := by
  obtain ⟨⟨filled, cur, emitted⟩, q_eq⟩ :=
    packerRun_tracks (taken := []) hn7 hsyms hvalid (Packer.start_tracks n syms) rfl
  simp only [List.nil_append] at filled cur emitted q_eq
  rw [q_eq] at filled
  have off_lt := (packerRun n syms Packer.start).1.off.isLt
  have j_eq : (packerRun n syms Packer.start).1.j.toNat = decCount n syms.length := by rw [decCount]; omega
  have off_eq : (packerRun n syms Packer.start).1.off.toNat = ovhCount n syms.length := by rw [ovhCount]; omega
  refine ⟨?_, q_eq, j_eq, off_eq, ?_⟩
  · rw [emitted, j_eq, ← decLen_outLen, decodeSymbols]
  · rw [cur, j_eq, off_eq, ← decLen_outLen, ← overhangBits_eq, ← overhang_eq_ovhValue, overhang]

end

/-! ### Symbols that are not valid -/

/-- Symbols are all valid, or some first one is not (R172). -/
theorem validSymbols_or_first_invalid (n : Nat) (syms : List Byte) :
    ValidSymbols n syms
      ∨ ∃ valid s rest, syms = valid ++ s :: rest ∧ ValidSymbols n valid ∧ 2 ^ n ≤ s.toNat := by
  induction syms with
  | nil => exact .inl nofun
  | cons s syms ih =>
    obtain s_lt | invalid := Nat.lt_or_ge s.toNat (2 ^ n)
    · obtain all | ⟨valid, b, rest, rfl, hvalid, hb⟩ := ih
      · exact .inl (List.forall_mem_cons.mpr ⟨s_lt, all⟩)
      · exact .inr ⟨s :: valid, b, rest, rfl, List.forall_mem_cons.mpr ⟨s_lt, hvalid⟩, hb⟩
    · exact .inr ⟨[], s, syms, rfl, nofun, invalid⟩

section
variable {n : Nat} {valid : List Byte} {s : Byte}

/-- The lowest invalid symbol is the one reported, with its index (R172). -/
theorem firstInvalid_append_cons (hvalid : ValidSymbols n valid) (hs : 2 ^ n ≤ s.toNat) (rest : List Byte) :
    firstInvalid n (valid ++ s :: rest) = some (s, valid.length) := by
  have none_before := firstInvalid_eq_none hvalid
  rw [firstInvalid] at none_before ⊢
  rw [List.zipIdx_append, List.find?_append, none_before, List.zipIdx_cons,
    List.find?_cons_of_pos (by simpa [validSymbol] using hs)]
  simp

/-- An invalid symbol is an error whether or not OUT is to be written (R170, R172). -/
theorem decExec_invalid (hvalid : ValidSymbols n valid) (hs : 2 ^ n ≤ s.toNat) (rest : List Byte) (write : Bool) :
    decExec n (valid ++ s :: rest) write = .err 2 s 0 valid.length := by
  rw [decExec, firstInvalid_append_cons hvalid hs]

/-- VALIDATE takes valid symbols as the packer does (R177). -/
theorem packerValidate_append (hvalid : ValidSymbols n valid) (rest : List Byte) (pk : Packer) :
    packerValidate n (valid ++ rest) pk = packerValidate n rest (packerRun n valid pk).1 := by
  induction valid generalizing pk with
  | nil => rfl
  | cons s valid ih =>
    obtain ⟨s_lt, tail_valid⟩ := List.forall_mem_cons.mp hvalid
    exact (if_pos (decide_eq_true s_lt)).trans (ih tail_valid _)

/-- VALIDATE stops at the first invalid symbol and does not take it (R177). -/
theorem packerValidate_append_cons (hvalid : ValidSymbols n valid) (hs : 2 ^ n ≤ s.toNat) (rest : List Byte)
    (pk : Packer) : packerValidate n (valid ++ s :: rest) pk = ((packerRun n valid pk).1, some s) := by
  rw [packerValidate_append hvalid, packerValidate, if_neg (by simpa [validSymbol] using hs)]

end

/-- The two-phase verdict of the packer is that of R170, for valid symbols and for others (R184). -/
theorem packerDecode_verdict {n : Nat} {syms : List Byte} (hn7 : n ≤ 7) (hsyms : syms.length ≤ 65536) (write : Bool) :
    (packerDecode n syms write).2.2 = decExec n syms write := by
  obtain hvalid | ⟨valid, s, rest, rfl, hvalid, hs⟩ := validSymbols_or_first_invalid n syms
  · obtain ⟨emitted, -, -, off_eq, cur_eq⟩ := packerRun_start hn7 hsyms hvalid
    have validate := packerValidate_append hvalid [] Packer.start
    rw [List.append_nil, packerValidate] at validate
    simp only [packerDecode, validate]
    by_cases canonical : ovhValue syms n = 0
    · have cur_zero : (packerRun n syms Packer.start).1.cur = 0 := BitVec.eq_of_toNat_eq (cur_eq.trans canonical)
      rw [decExec_ok hvalid canonical, if_neg (not_not_intro cur_zero)]
      cases write
      · rfl
      · simp [emitted]
    · have cur_ne : (packerRun n syms Packer.start).1.cur ≠ 0 := by
        intro cur_zero
        exact canonical (cur_eq ▸ congrArg BitVec.toNat cur_zero)
      rw [decExec_overhang hvalid canonical, if_pos cur_ne, ← cur_eq, ← off_eq, BitVec.ofNat_toNat]
  · have fits : valid.length ≤ 65536 := by simp at hsyms; omega
    obtain ⟨-, q_eq, -⟩ := packerRun_start hn7 fits hvalid
    simp only [packerDecode, packerValidate_append_cons hvalid hs, decExec_invalid hvalid hs, q_eq]

/-- Settles O57: the end of the run on valid symbols is `packerRun_start`, with the bytes as the sums of R173, and the
verdict on every input is `packerDecode_verdict`. -/
theorem packerEmitsTheBytesAndTheOverhang : Obligations.PackerEmitsTheBytesAndTheOverhang := by
  intro n syms _ hn7 hsyms
  refine ⟨fun hvalid => ?_, packerDecode_verdict hn7 hsyms⟩
  have run := packerRun_start hn7 hsyms hvalid
  simpa only [decodeSymbols, decLen_outLen, decodedByte_eq_octet] using run

/-! ### Encoding what symbols decode to -/

section
variable {n : Nat} {syms : List Byte}

/-- The bytes of symbols with a zero overhang carry their stream, bit for bit (R173, R178). -/
theorem byteBit_decodeSymbols (hn : 1 ≤ n) (hovh : ovhValue syms n = 0) :
    byteBit (decodeSymbols n syms) = symbolBit syms n := by
  funext k
  have size : (decodeSymbols n syms).length = decCount n syms.length := by rw [length_decodeSymbols, decLen_outLen]
  obtain inside | beyond := Nat.lt_or_ge k (8 * decCount n syms.length)
  · have index_lt : k / 8 < decCount n syms.length := by omega
    have bit := testBit_windowValue (symbolBit syms n) (8 * (k / 8)) (Nat.mod_lt k (by decide : 0 < 8))
    rw [Nat.div_add_mod] at bit
    have place_lt : 7 - k % 8 < 8 := by omega
    rw [byteBit, getElem?_decodeSymbols, decLen_outLen, if_pos index_lt, ← bit]
    simp only [decodedByte, BitVec.getLsbD_ofNat, place_lt, decide_true, Bool.true_and]
  · rw [byteBit_beyond (size ▸ beyond)]
    symm
    obtain inside | beyond' := Nat.lt_or_ge k (syms.length * n)
    · have zero : windowValue (symbolBit syms n) (8 * decCount n syms.length) (ovhCount n syms.length) = 0 := by
        rw [← decLen_outLen, ← overhangBits_eq, ← overhang, overhang_eq_ovhValue, hovh]
      have bits : 8 * decCount n syms.length + ovhCount n syms.length = syms.length * n := Nat.div_add_mod _ 8
      have bit := bit_of_windowValue_eq_zero zero (j := k - 8 * decCount n syms.length) (by omega)
      rwa [Nat.add_sub_cancel' beyond] at bit
    · exact symbolBit_beyond hn beyond'

/-- The symbols that the decoded bytes need are no more than were given (R189). -/
theorem encCount_decCount_le (hn : 1 ≤ n) (m : Nat) : encCount n (decCount n m) ≤ m := by
  obtain ⟨-, padding⟩ := (eq_encCount_iff hn (decCount n m) _).mp rfl
  have whole : 8 * decCount n m ≤ m * n := Nat.mul_div_le _ 8
  refine Nat.lt_succ_iff.mp (Nat.lt_of_mul_lt_mul_right (a := n) ?_)
  rw [Nat.succ_mul]
  omega

/-- Encoding what valid symbols with a zero overhang decode to gives the symbols that those bytes need (R189). -/
theorem encodeBytes_decodeSymbols (hn : 1 ≤ n) (hvalid : ValidSymbols n syms) (hovh : ovhValue syms n = 0) :
    encodeBytes n (decodeSymbols n syms) = syms.take (encCount n (decCount n syms.length)) := by
  refine List.ext_getElem? fun i => ?_
  rw [getElem?_encodeBytes, encLen_outLen hn, length_decodeSymbols, decLen_outLen, List.getElem?_take]
  split
  next hi =>
    have i_lt : i < syms.length := hi.trans_le (encCount_decCount_le hn _)
    have symbol := windowValue_symbolBit (List.getElem?_eq_getElem i_lt) (hvalid _ (List.getElem_mem i_lt))
    rw [symbolAt, byteBit_decodeSymbols hn hovh, symbol, List.getElem?_eq_getElem i_lt, BitVec.ofNat_toNat,
      BitVec.setWidth_eq]
  next => rfl

end

/-- Settles O59: `encodeBytes_decodeSymbols`, and the symbols that the bytes need are all of them exactly for a
length-valid count (`ovhCount_lt_iff`). -/
theorem encOfDecReturnsLengthValidSymbols : Obligations.EncOfDecReturnsLengthValidSymbols := by
  intro n syms hn _ hvalid hovh
  have first := encodeBytes_decodeSymbols hn hvalid hovh
  refine ⟨first, ?_⟩
  rw [first, List.take_eq_self_iff, ovhCount_lt_iff hn]
  exact ⟨fun h => h.antisymm (encCount_decCount_le hn _), Eq.le⟩

/-! ### What DEC and CHK complete with -/

/-- Settles O34: `dec_completes`, with the bytes of `decodeSymbols` as the sums of R173. -/
theorem decWritesTheBytesOfItsInput : Obligations.DecWritesTheBytesOfItsInput := by
  intro s syms hidle hw hlen _ hin hvalid hovh
  obtain ⟨t, u, accept, complete, completed, hout⟩ := dec_completes hidle hw hlen hin hvalid hovh
  refine ⟨t, u, accept, complete, completed, fun i => ?_⟩
  rw [hout, Memory.read?_writeFrom, length_decodeSymbols, Nat.zero_add, Nat.sub_zero, getElem?_decodeSymbols,
    decLen_outLen, decodedByte_eq_octet]
  by_cases hi : i < decCount s.width.toNat syms.length <;> simp [hi]

/-- Settles O36: the symbols are valid ones, the invalid one and the rest, so `decExec_invalid` gives the error. -/
theorem firstInvalidSymbolIsReported : Obligations.FirstInvalidSymbolIsReported := by
  intro i s syms q b hi hidle hw hlen hin hq hb hvalid
  obtain ⟨q_lt, rfl⟩ := List.getElem?_eq_some_iff.mp hq
  have parts : syms = syms.take q ++ syms[q] :: syms.drop (q + 1) := by
    rw [← List.drop_eq_getElem_cons, List.take_append_drop]
  have index : (syms.take q).length = q := List.length_take_of_le q_lt.le
  have invalid := decExec_invalid hvalid hb (syms.drop (q + 1))
  rw [← parts, index] at invalid
  exact decode_command_fails hi hidle hw hlen hin (by decide) invalid

/-- A result with its output left out. -/
def ExecResult.withoutOutput : ExecResult → ExecResult
  | .ok _ outLen res fullg resid => .ok [] outLen res fullg resid
  | r => r

theorem decExec_withoutOutput (n : Nat) (syms : List Byte) :
    decExec n syms false = (decExec n syms true).withoutOutput := by
  simp only [decExec]
  split
  · rfl
  · split <;> rfl

/-- CHK's result is DEC's with its output left out, whatever the checks find (R171). -/
theorem engineExec_chk (cap : Nat) (w : BitVec 8) (elen : BitVec 32) (inBuf : Memory) :
    engineExec cap ⟨4, w, elen⟩ inBuf = (engineExec cap ⟨3, w, elen⟩ inBuf).withoutOutput := by
  have elements : execElements 4 w.toNat elen.toNat inBuf
      = (execElements 3 w.toNat elen.toNat inBuf).withoutOutput := by
    unfold execElements
    split
    · rfl
    · exact decExec_withoutOutput _ _
  obtain hw | hw := Bool.eq_false_or_eq_true (legalWidth w)
  · obtain hlen | hlen := Nat.lt_or_ge cap elen.toNat
    · rw [engineExec_length (.inr (.inr rfl)) hw hlen, engineExec_length (.inr (.inl rfl)) hw hlen]
      rfl
    · rw [engineExec_elements (.inr (.inr rfl)) hw hlen, engineExec_elements (.inr (.inl rfl)) hw hlen, elements]
  · rw [engineExec_width (by simp) (by simp) hw, engineExec_width (by simp) (by simp) hw]
    rfl

/-- DEC has a result unless it would read an unwritten byte (R232, R239). -/
theorem engineExec_dec_ne_stopped {s : State}
    (h : ¬ LegalWidth s.width ∨ s.inCap < s.len.toNat ∨ ∃ syms, InHolds s syms) (why : Fault) :
    engineExec s.inCap ⟨3, s.width, s.len⟩ s.inBuf ≠ .stopped why := by
  by_cases hw : LegalWidth s.width
  · obtain hbad | hlen | ⟨syms, hin⟩ := h
    · exact absurd hw hbad
    · rw [engineExec_length (.inr (.inl rfl)) (legalWidth_iff (w := s.width).mpr hw) hlen]
      nofun
    · obtain ⟨written, -⟩ := Memory.elements_eq hin.bytes
      exact engineExec_ne_stopped (by simp) (hin.length ▸ written) why
  · rw [engineExec_width (by simp) (by simp) (legalWidth_eq_false hw)]
    nofun

/-- Only ENC runs the shifter: any other command's run changes at most the packer and the sub-phase (R156, R177). -/
theorem runDatapath_frame_packer {s : State} (hop : s.snap.op ≠ 2) :
    ∃ pk ph, runDatapath s = { s with packer := pk, subPhase := ph } := by
  unfold runDatapath
  dsimp only
  rw [if_neg hop]
  split_ifs
  · exact ⟨s.packer, s.subPhase, rfl⟩
  · exact ⟨_, _, rfl⟩
  · exact ⟨s.packer, s.subPhase, rfl⟩

/-- Settles O35: CHK's result is DEC's without its output (`engineExec_chk`), and the two completions differ otherwise
only in the snapshot and in what the packer did. -/
theorem chkIsDecWithoutOutput : Obligations.ChkIsDecWithoutOutput := by
  intro s hidle h
  have chk := engineExec_chk s.inCap s.width s.len s.inBuf
  have dec_accept := exec_command_accepted (i := .dec) (op := 3) rfl (by decide) hidle
  have chk_accept := exec_command_accepted (i := .chk) (op := 4) rfl (by decide) hidle
  obtain ⟨_, _, dec_run⟩ := runDatapath_frame_packer (s := acknowledge (acceptCommand 3 s)) (by simp)
  obtain ⟨_, _, chk_run⟩ := runDatapath_frame_packer (s := acknowledge (acceptCommand 4 s)) (by simp)
  cases dec : engineExec s.inCap ⟨3, s.width, s.len⟩ s.inBuf with
  | ok out outLen res fullg resid =>
    have dec_done := completion_eq_ok (s := acknowledge (acceptCommand 3 s)) dec
    have chk_done := completion_eq_ok (s := acknowledge (acceptCommand 4 s)) (chk.trans (congrArg _ dec))
    rw [dec_run] at dec_done
    rw [chk_run] at chk_done
    exact ⟨_, _, _, _, dec_accept, (engineTurn_busy rfl).trans dec_done, chk_accept,
      (engineTurn_busy rfl).trans chk_done, rfl⟩
  | err code value ovhbits index =>
    have dec_done := completion_eq_err (s := acknowledge (acceptCommand 3 s)) dec
    have chk_done := completion_eq_err (s := acknowledge (acceptCommand 4 s)) (chk.trans (congrArg _ dec))
    rw [dec_run] at dec_done
    rw [chk_run] at chk_done
    exact ⟨_, _, _, _, dec_accept, (engineTurn_busy rfl).trans dec_done, chk_accept,
      (engineTurn_busy rfl).trans chk_done, rfl⟩
  | stopped why => exact absurd dec (engineExec_dec_ne_stopped h why)

end Sys2Proof.Machine

/-! Proofs of the family 60_exceptions: the error that a command reports is the first of R208's order that applies. -/

namespace Sys2Proof.Machine

open Sys2Proof.Rules

/-- What follows from the completed state holds of the completion too. -/
theorem completesWith_mono {i : Instr} {s : State} {P Q : State → Prop} (h : CompletesWith i s P)
    (hPQ : ∀ u, P u → Q u) : CompletesWith i s Q := by
  obtain ⟨t, u, accept, complete, hu⟩ := h
  exact ⟨t, u, accept, complete, hPQ u hu⟩

/-! ### The lowest invalid symbol -/

section
variable {n q : Nat} {syms : List Byte} {b : Byte}

/-- The symbol that R172 describes by its index is the one `firstInvalid` finds, so it is the only one. -/
theorem firstInvalid_eq_some (hq : syms[q]? = some b) (hb : 2 ^ n ≤ b.toNat) (hvalid : ValidSymbols n (syms.take q)) :
    firstInvalid n syms = some (b, q) := by
  obtain ⟨q_lt, rfl⟩ := List.getElem?_eq_some_iff.mp hq
  have found := firstInvalid_append_cons hvalid hb (syms.drop (q + 1))
  rwa [← List.drop_eq_getElem_cons, List.take_append_drop, List.length_take_of_le q_lt.le] at found

theorem not_validSymbols_of_mem (hmem : b ∈ syms) (hb : 2 ^ n ≤ b.toNat) : ¬ ValidSymbols n syms :=
  fun hvalid => Nat.not_lt.mpr hb (hvalid b hmem)

end

/-! ### What DEC and CHK report -/

/-- What DEC and CHK report of symbols they may read: the lowest invalid one, then a nonzero overhang (R170, R208). -/
def DecodeReport (n : Nat) (syms : List Byte) (u : State) : Prop :=
  (¬ ValidSymbols n syms → u.ecode = 2)
    ∧ (∀ q b, syms[q]? = some b → 2 ^ n ≤ b.toNat → ValidSymbols n (syms.take q) → u.errIndex = BitVec.ofNat 32 q)
    ∧ (ValidSymbols n syms → ovhValue syms n ≠ 0 → u.ecode = 3)
    ∧ (ValidSymbols n syms → ovhValue syms n = 0 → u.ecode = 0)

section
variable {n : Nat} {syms : List Byte} {u : State}

theorem decodeReport_of_invalid {valid rest : List Byte} {b : Byte} (hvalid : ValidSymbols n valid)
    (hb : 2 ^ n ≤ b.toNat) (hcode : u.ecode = 2) (hindex : u.errIndex = BitVec.ofNat 32 valid.length) :
    DecodeReport n (valid ++ b :: rest) u := by
  have invalid : ¬ ValidSymbols n (valid ++ b :: rest) := not_validSymbols_of_mem List.mem_append_cons_self hb
  refine ⟨fun _ => hcode, fun q c hq hc hbefore => ?_, fun all => absurd all invalid, fun all => absurd all invalid⟩
  have same : some (b, valid.length) = some (c, q) :=
    (firstInvalid_append_cons hvalid hb rest).symm.trans (firstInvalid_eq_some hq hc hbefore)
  cases same
  exact hindex

theorem decodeReport_of_valid (hvalid : ValidSymbols n syms) (hnonzero : ovhValue syms n ≠ 0 → u.ecode = 3)
    (hzero : ovhValue syms n = 0 → u.ecode = 0) : DecodeReport n syms u :=
  ⟨fun invalid => absurd hvalid invalid,
    fun _ _ hq hb _ => absurd hvalid (not_validSymbols_of_mem (List.mem_of_getElem? hq) hb),
    fun _ => hnonzero, fun _ => hzero⟩

end

section
variable {i : Instr} {op : BitVec 4} {s : State} {syms : List Byte}

/-- DEC and CHK decode the input they read, and differ only in whether OUT is to be written (R170, R171). -/
theorem engineExec_decode (hop : op = 3 ∨ op = 4) (hw : LegalWidth s.width) (hlen : s.len.toNat ≤ s.inCap)
    (hin : InHolds s syms) :
    ∃ write, engineExec s.inCap ⟨op, s.width, s.len⟩ s.inBuf = decExec s.width.toNat syms write := by
  obtain rfl | rfl := hop
  · exact ⟨true, engineExec_written (.inr (.inl rfl)) hw hlen hin⟩
  · exact ⟨false, engineExec_written (.inr (.inr rfl)) hw hlen hin⟩

/-- The last two checks of R208, on written input that fits in IN at a legal width. -/
theorem decode_command_reports (hop : opOf i = some op) (hdec : op = 3 ∨ op = 4) (hidle : s.busy = false)
    (hw : LegalWidth s.width) (hlen : s.len.toNat ≤ s.inCap) (hin : InHolds s syms) :
    CompletesWith i s (DecodeReport s.width.toNat syms) := by
  have h0 : op ≠ 0 := by obtain rfl | rfl := hdec <;> decide
  obtain ⟨write, run⟩ := engineExec_decode hdec hw hlen hin
  obtain hvalid | ⟨valid, b, rest, rfl, hvalid, hb⟩ := validSymbols_or_first_invalid s.width.toNat syms
  · by_cases hovh : ovhValue syms s.width.toNat = 0
    · exact completesWith_mono (command_completes hop h0 hidle (run.trans (decExec_ok hvalid hovh write)))
        fun u ⟨completed, _⟩ => decodeReport_of_valid hvalid (fun h => absurd hovh h) fun _ => completed.ecode
    · have bits_le := ovhCount_le s.width.toNat syms.length
      exact completesWith_mono
        (command_fails hop h0 hidle (by omega) (run.trans (decExec_overhang hvalid hovh write)))
        fun u failed => decodeReport_of_valid hvalid (fun _ => failed.ecode) fun h => absurd h hovh
  · exact completesWith_mono
      (command_fails hop h0 hidle (by decide) (run.trans (decExec_invalid hvalid hb rest write)))
      fun u failed => decodeReport_of_invalid hvalid hb failed.ecode failed.errIndex

end

/-- Settles O40, by the tests of `Exec` in their order: OP (O29), width (`command_fails_of_illegal_width`), length
(`engineExec_length`), and what `decode_command_reports` says of the symbols. -/
theorem errorsFollowTheirPriority : Obligations.ErrorsFollowTheirPriority := by
  intro i op s hop h0 hidle
  refine ⟨fun h5 => ?badCommand, fun h5 hw => ?invalidWidth, fun hgsz hw => ?gsz, fun h2 h4 hw hlen => ?badLength,
    fun bs hin hw hlen => ⟨fun henc => ?enc, fun hdec => ?decode⟩⟩
  case badCommand =>
    exact completesWith_mono (reservedCommandCompletesWithBadCommand i op s hop h5 hidle) fun _ failed => failed.ecode
  case invalidWidth =>
    exact completesWith_mono (command_fails_of_illegal_width hop h0 h5 hidle hw) fun _ failed => failed.ecode
  case gsz =>
    exact completesWith_mono (command_completes hop h0 hidle (engineExec_gsz hgsz (legalWidth_iff.mpr hw)))
      fun _ ⟨completed, _⟩ => completed.ecode
  case badLength =>
    have element : op = 2 ∨ op = 3 ∨ op = 4 := by bv_omega
    exact completesWith_mono
      (command_fails hop h0 hidle (by decide) (engineExec_length element (legalWidth_iff.mpr hw) hlen))
      fun _ failed => failed.ecode
  case enc =>
    subst henc
    exact completesWith_mono (command_completes hop h0 hidle (engineExec_written (.inl rfl) hw hlen hin))
      fun _ ⟨completed, _⟩ => completed.ecode
  case decode => exact decode_command_reports hop hdec hidle hw hlen hin

end Sys2Proof.Machine

/-! Proofs of the family 70_reset_and_hazards: writes while BUSY = 1, what STATUS shows from an accept on, a completion
over unwritten input, and reset. -/

namespace Sys2Proof.Machine

open Sys2Proof.Rules

/-! ### Writes while BUSY = 1 -/

/-- A legal access to STATUS is 4 bytes wide, at its offset (R68). -/
theorem legalAccess_status {w : Nat} {a : Offset} (hl : LegalAccess w a) (ha : a.toNat = 0x14) :
    w = 4 ∧ a = 0x00014#20 := by
  rw [LegalAccess, if_pos (by omega)] at hl
  obtain ⟨hw, -⟩ := hl
  exact ⟨hw, BitVec.eq_of_toNat_eq ha⟩

/-- Settles O20: `busWrite` drops the write exactly where R236 lists its target (`droppable_iff`), and a write that is
not dropped has no effect but at STATUS (`performWrite_not_droppable`). -/
theorem writesWhileBusyAreDropped : Obligations.WritesWhileBusyAreDropped := by
  intro s w a v hw hl hcap hb
  have hdrop := droppable_iff hw hl hcap
  refine ⟨fun hd => ?dropped, fun hd hstatus => ?noEffect, fun hstatus => ?status⟩
  case dropped =>
    rw [exec_writeOf hw, busWrite_dropped s hl (by simp [hb, hdrop.mpr hd])]
    exact ⟨_, _, rfl⟩
  case noEffect =>
    have kept : ¬ (s.busy = true ∧ droppable s a w = true) := fun ⟨_, h⟩ => hd (hdrop.mp h)
    have effect : performWrite w a v s = s := by
      obtain same | ⟨-, hreg, -⟩ := performWrite_not_droppable v hb kept
      · exact same
      · exact absurd ((regAt_eq_iff (by decide)).mp hreg) hstatus
    rw [exec_writeOf hw, busWrite_performed s hl (by simpa using kept), effect]
    exact ⟨_, _, rfl⟩
  case status =>
    obtain ⟨rfl, rfl⟩ := legalAccess_status hl hstatus
    obtain ⟨-, write⟩ := statusReadsItsFlagsAndWritesClearWdrop s
    exact write v

/-! ### What STATUS shows from an accept on -/

/-- A write that is performed keeps BUSY and DONE, but for the write to CMD (R27, R28). -/
theorem performWrite_flags (w : Nat) (a : Offset) (v : Word) (s : State) :
    ((performWrite w a v s).busy = s.busy ∧ (performWrite w a v s).done = s.done)
      ∨ (region a = .registers ∧ regAt a = .cmd ∧ performWrite w a v s = startCommand (v.extractLsb' 0 4) s) := by
  obtain heq | ⟨-, -, heq⟩ | ⟨-, -, heq⟩ | ⟨hr, hreg, heq⟩ | ⟨-, -, heq⟩ | ⟨-, heq⟩ | ⟨-, heq⟩ :=
    performWrite_cases w a v s
  case inr.inr.inr.inl => exact .inr ⟨hr, hreg, heq⟩
  all_goals exact .inl (by simp [heq])

/-- A request that accepts no command, because one is running or because it is none but NOP, keeps BUSY and DONE (R27,
R28, R113, R114). -/
theorem exec_decode_keeps_flags {r : BusReq} {s t : State} (hx : exec (decode r) s = .next t)
    (h : s.busy = true ∨ opOf (decode r) = none ∨ opOf (decode r) = some 0) :
    t.busy = s.busy ∧ t.done = s.done := by
  obtain ⟨_, _, rfl⟩ | ⟨-, -, -, -, rfl⟩ | ⟨hwe, hl, hd, rfl⟩ := exec_decode_cases hx
  · exact ⟨rfl, rfl⟩
  · exact ⟨rfl, rfl⟩
  · rw [acknowledge_busy, acknowledge_done]
    obtain kept | ⟨hr, hcmd, heq⟩ := performWrite_flags (2 ^ r.size.toNat) r.addr r.wdata s
    · exact kept
    · rw [opOf_decode_of_cmd hwe hl hr hcmd] at h
      obtain hb | hnone | hnop := h
      · exact absurd ⟨hb, by simp [droppable, hr, hcmd]⟩ hd
      · cases hnone
      · rw [heq, Option.some.inj hnop]
        exact ⟨rfl, rfl⟩

/-- Requests that accept no command are all answered, and STATUS shows the same BUSY and DONE after them. -/
theorem performs_keeps_flags (rs : List BusReq) (s : State)
    (h : s.busy = true ∨ ∀ r ∈ rs, opOf (decode r) = none ∨ opOf (decode r) = some 0) :
    ∃ t, performs rs s t ∧ t.busy = s.busy ∧ t.done = s.done := by
  induction rs generalizing s with
  | nil => exact ⟨s, rfl, rfl, rfl⟩
  | cons r rs ih =>
    obtain ⟨t, ht⟩ := exec_decode_answers r s
    obtain ⟨hbusy, hdone⟩ := exec_decode_keeps_flags ht (h.imp_right fun all => all r List.mem_cons_self)
    obtain ⟨u, hu, hbusy', hdone'⟩ := ih t (h.imp hbusy.trans fun all q hq => all q (List.mem_cons_of_mem r hq))
    exact ⟨u, ⟨t, ht, hu⟩, hbusy'.trans hbusy, hdone'.trans hdone⟩

/-- A read of STATUS shows BUSY in bit 0 and DONE in bit 1 (R32). -/
theorem exec_rd32_status_flags {s : State} {busy done : Bool} (hbusy : s.busy = busy) (hdone : s.done = done) :
    ∃ t, exec (.rd32 0x00014#20) s = .next t
      ∧ t.resp.rdata.getLsbD 0 = busy ∧ t.resp.rdata.getLsbD 1 = done :=
  ⟨_, exec_rd32_status s, (statusWord_busy s).trans hbusy, (statusWord_done s).trans hdone⟩

/-- Settles O28: the accept sets BUSY and clears DONE, the completion does the reverse, and the requests after each keep
both (`performs_keeps_flags`). -/
theorem busyIsVisibleAtOnce : Obligations.BusyIsVisibleAtOnce := by
  intro i op s hop h0 hidle
  refine ⟨_, exec_command_accepted hop h0 hidle, fun before => ?_⟩
  obtain ⟨u, hu, hbusy, hdone⟩ := performs_keeps_flags before (acknowledge (acceptCommand op s)) (.inl rfl)
  refine ⟨u, hu, exec_rd32_status_flags hbusy hdone, fun v hv after hafter => ?_⟩
  obtain ⟨idle, completed⟩ := completion_flags ((engineTurn_busy hbusy).symm.trans hv)
  obtain ⟨w, hw, hbusy', hdone'⟩ := performs_keeps_flags after v (.inr hafter)
  obtain ⟨w', read, shown⟩ := exec_rd32_status_flags (hbusy'.trans idle) (hdone'.trans completed)
  exact ⟨w, w', hw, read, shown⟩

/-! ### A completion over unwritten input -/

theorem completion_eq_fault {s : State} {why : Fault} (h : engineExec s.inCap s.snap s.inBuf = .stopped why) :
    completion s = .fault why := by
  rw [completion, h]

/-- Settles O38: the command passes the width and length tests of `Exec`, and then its lowest unwritten element stops it
before any symbol is looked at. -/
theorem unwrittenInputIsAFaultOfTheProgram : Obligations.UnwrittenInputIsAFaultOfTheProgram := by
  intro i s q hi hidle hw hlen hq hunwritten hlow
  obtain ⟨op, hop, h0, element⟩ := opOf_element_command hi
  have passes := engineExec_elements (snap := ⟨op, s.width, s.len⟩) (inBuf := s.inBuf) element
    (legalWidth_iff.mpr hw) hlen
  have stops := execElements_unwritten op s.width.toNat (Memory.firstUnwritten_eq_some hq hunwritten hlow)
  exact ⟨_, exec_command_accepted hop h0 hidle,
    (engineTurn_busy rfl).trans (completion_eq_fault (passes.trans stops))⟩

/-! ### Reset -/

/-- The reset values of R231, register by register. -/
theorem readReg_resetWith (cap : Nat) (a : Offset) :
    readReg (regAt a) (State.resetWith cap) =
      if a.toNat = 0 then 0x42520107#32 else if a.toNat = 4 then BitVec.ofNat 32 cap else 0#32 := by
  by_cases hstatus : a.toNat = 0x14
  · have register : regAt a = .status := (regAt_eq_iff (by decide)).mpr hstatus
    simp [register, hstatus, readReg, statusWord, State.err, State.resetWith]
  · rw [readReg_regAt _ hstatus]
    simp [State.resetWith]

/-- Settles O51: a register read returns `readReg`, and the buffers list no byte. -/
theorem registersReadTheirResetValues : Obligations.RegistersReadTheirResetValues := by
  intro cap _ _
  refine ⟨fun a hr ha => ?_, fun _ => ⟨rfl, rfl⟩⟩
  exact ⟨_, exec_rd32_register _ hr ha, rfl, readReg_resetWith cap a⟩

/-- Settles O52: the step is `resetBlock`, whose fields are the reset values, whether or not a command is running. -/
theorem resetAbortsTheRunningCommand : Obligations.ResetAbortsTheRunningCommand := by
  intro s rest hin
  obtain ⟨-, -, -, reset, -⟩ := stepGivesTheEngineItsTurnAndTakesReset s rest
  exact ⟨_, reset hin, rfl, rfl, rfl, rfl, rfl, rfl, rfl, rfl, rfl, rfl, rfl, rfl, rfl, fun _ => ⟨rfl, rfl⟩⟩

end Sys2Proof.Machine
